-- ==== Sys2Proof/Word.lean ====
section
/-! DEFINITION. The word types of the core: 8-bit data (spec/00_scope.md R11, "all values in this spec are unsigned"),
32-bit host words (spec/20_memory.md R68) and the 64-bit result (spec/10_state.md R27). -/

namespace Sys2Proof

/-- A byte: a message byte, a LUT index or entry, an accumulator (R11, R12). -/
abbrev Byte := BitVec 8

/-- A host-port word, also wide enough for BASE, LEN and IDX, whose widths AW and LW are at most 32 (R6, R7, R68). -/
abbrev Word := BitVec 32

/-- The 64-bit result and its lanes (R27, R171). -/
abbrev Dword := BitVec 64

end Sys2Proof
end

