-- ==== Sys2Proof/Syntax.lean ====
section
/-! DEFINITION. What a host presents on the port, and `Instr`: one constructor for each of the 21 rows of
spec/opcode_table.json (formats CMD and HBUS of spec/30_encoding.md R90–R95). -/

namespace Sys2Proof

/-- One item of the host's stream, in the two formats of spec/30_encoding.md section 1.
On the wires a command IS a write of its word to CTRL (R92, R99); the two constructors say in which of the two formats
the opcode table names it (log entry 13). -/
inductive HostItem where
  /-- Format HBUS: the 6-bit access code `{WE, haddr[4:0]}` and, for a write, its data word (R90). -/
  | access (code : BitVec 6) (data : Word)
  /-- Format CMD: the command word of a write to CTRL (R92), the pseudo-command `CMD …` of R99. -/
  | command (word : Word)
  deriving DecidableEq, Repr

/-- The instructions. `ign` is bits [31:3] of a command word, ignored by the core (R94); `low` is haddr[1:0], ignored by
the core (R69); `data` is hwdata[31:0] (R90). They are kept so that no bit of an encoding is lost (log entry 16). -/
inductive Instr where
  /-- `CMD NOP` (R200). -/
  | cmdNop (ign : BitVec 29)
  /-- `CMD HASH8` (R143). -/
  | cmdHash8 (ign : BitVec 29)
  /-- `CMD HASH64` (R173). -/
  | cmdHash64 (ign : BitVec 29)
  /-- `CMD CLEAR` (R201). -/
  | cmdClear (ign : BitVec 29)
  /-- The reserved command codes 4–7 (R95, R202); `code` is OPC. -/
  | cmdReserved (code : BitVec 3) (ign : BitVec 29)
  /-- `RD CTRL` (R211). -/
  | rdCtrl (low : BitVec 2)
  /-- `RD STATUS` (R212). -/
  | rdStatus (low : BitVec 2)
  /-- `RD BASE` (R213). -/
  | rdBase (low : BitVec 2)
  /-- `RD LEN` (R214). -/
  | rdLen (low : BitVec 2)
  /-- `RD HASH8` (R215). -/
  | rdHash8 (low : BitVec 2)
  /-- `RD HASH64_LO` (R216). -/
  | rdHash64Lo (low : BitVec 2)
  /-- `RD HASH64_HI` (R217). -/
  | rdHash64Hi (low : BitVec 2)
  /-- `RD` of the reserved offset 0x1C (R218). -/
  | rdRsvd (low : BitVec 2)
  /-- `WR CTRL` (R205). -/
  | wrCtrl (low : BitVec 2) (data : Word)
  /-- `WR STATUS` (R208). -/
  | wrStatus (low : BitVec 2) (data : Word)
  /-- `WR BASE` (R206, R207). -/
  | wrBase (low : BitVec 2) (data : Word)
  /-- `WR LEN` (R206, R207). -/
  | wrLen (low : BitVec 2) (data : Word)
  /-- `WR HASH8` (R208). -/
  | wrHash8 (low : BitVec 2) (data : Word)
  /-- `WR HASH64_LO` (R208). -/
  | wrHash64Lo (low : BitVec 2) (data : Word)
  /-- `WR HASH64_HI` (R208). -/
  | wrHash64Hi (low : BitVec 2) (data : Word)
  /-- `WR` of the reserved offset 0x1C (R208). -/
  | wrRsvd (low : BitVec 2) (data : Word)
  deriving DecidableEq, Repr

end Sys2Proof
end

