-- ==== Sys2Proof/WellFormed.lean ====
section
/-! DEFINITION. Which instructions are well-formed. The field types leave one check: the code of a reserved command is
4, 5, 6 or 7 (spec/30_encoding.md R95, "OPC[2] = 1"). -/

namespace Sys2Proof

/-- Is this a term that some word of the spec's encoding stands for? (R93, R95: codes 0–3 have rows of their own.) -/
def Instr.wellFormed : Instr → Bool
  | .cmdReserved code _ => code.getLsbD 2
  | .cmdNop _ | .cmdHash8 _ | .cmdHash64 _ | .cmdClear _ => true
  | .rdCtrl _ | .rdStatus _ | .rdBase _ | .rdLen _ => true
  | .rdHash8 _ | .rdHash64Lo _ | .rdHash64Hi _ | .rdRsvd _ => true
  | .wrCtrl _ _ | .wrStatus _ _ | .wrBase _ _ | .wrLen _ _ => true
  | .wrHash8 _ _ | .wrHash64Lo _ _ | .wrHash64Hi _ _ | .wrRsvd _ _ => true

end Sys2Proof
end

