-- ==== Sys2Proof/Decode.lean ====
section
/-! DEFINITION. The decoder, total on every host item (spec/30_encoding.md R90–R95: every access code selects one row and
every command word decodes, so no item is illegal), the encoder from the same tables, and the opcode table's words. -/

namespace Sys2Proof

/-! ### Fields of the two formats -/

/-- OPC, bits 2:0 of a command word (R92). -/
def opcOf (word : Word) : BitVec 3 := word.extractLsb' 0 3

/-- Bits 31:3 of a command word, ignored (R94). -/
def ignOf (word : Word) : BitVec 29 := word.extractLsb' 3 29

/-- WE, bit 5 of an access code (R90). -/
def weOf (code : BitVec 6) : Bool := code.getLsbD 5

/-- OFF, bits 4:2 of an access code (R90, R91). -/
def offOf (code : BitVec 6) : BitVec 3 := code.extractLsb' 2 3

/-- haddr[1:0], bits 1:0 of an access code, ignored (R69). -/
def lowOf (code : BitVec 6) : BitVec 2 := code.extractLsb' 0 2

/-! ### Decoding -/

/-- The row of format CMD a command word selects (R93). -/
def decodeCommand (word : Word) : Instr :=
  match (opcOf word).toNat with
  | 0 => .cmdNop (ignOf word)
  | 1 => .cmdHash8 (ignOf word)
  | 2 => .cmdHash64 (ignOf word)
  | 3 => .cmdClear (ignOf word)
  | _ => .cmdReserved (opcOf word) (ignOf word)

/-- The read at a word offset; the last arm is offset 7, the only one left (R91). -/
def decodeRead (off : BitVec 3) (low : BitVec 2) : Instr :=
  match off.toNat with
  | 0 => .rdCtrl low
  | 1 => .rdStatus low
  | 2 => .rdBase low
  | 3 => .rdLen low
  | 4 => .rdHash8 low
  | 5 => .rdHash64Lo low
  | 6 => .rdHash64Hi low
  | _ => .rdRsvd low

/-- The write at a word offset; the last arm is offset 7, the only one left (R91). -/
def decodeWrite (off : BitVec 3) (low : BitVec 2) (data : Word) : Instr :=
  match off.toNat with
  | 0 => .wrCtrl low data
  | 1 => .wrStatus low data
  | 2 => .wrBase low data
  | 3 => .wrLen low data
  | 4 => .wrHash8 low data
  | 5 => .wrHash64Lo low data
  | 6 => .wrHash64Hi low data
  | _ => .wrRsvd low data

/-- The row of format HBUS an access selects (R90, R91). A read has no data word: `data` is not looked at. -/
def decodeAccess (code : BitVec 6) (data : Word) : Instr :=
  if weOf code then decodeWrite (offOf code) (lowOf code) data
  else decodeRead (offOf code) (lowOf code)

/-- The instruction a host item stands for. -/
def decode : HostItem → Instr
  | .access code data => decodeAccess code data
  | .command word => decodeCommand word

/-! ### Encoding -/

/-- The access code `{WE, OFF, haddr[1:0]}` (R90). -/
def accessCode (we : Bool) (off : BitVec 3) (low : BitVec 2) : BitVec 6 := BitVec.ofBool we ++ off ++ low

/-- A host read at a word offset, with no data word (R90). -/
def readAt (off : BitVec 3) (low : BitVec 2) : HostItem := .access (accessCode false off low) 0#32

/-- A host write at a word offset (R90). -/
def writeAt (off : BitVec 3) (low : BitVec 2) (data : Word) : HostItem := .access (accessCode true off low) data

/-- A command word `{ign, OPC}` (R92). -/
def commandWord (opc : BitVec 3) (ign : BitVec 29) : HostItem := .command (ign ++ opc)

/-- The host item of an instruction, from the tables of R91 and R93. -/
def encode : Instr → HostItem
  | .cmdNop ign => commandWord 0b000#3 ign
  | .cmdHash8 ign => commandWord 0b001#3 ign
  | .cmdHash64 ign => commandWord 0b010#3 ign
  | .cmdClear ign => commandWord 0b011#3 ign
  | .cmdReserved code ign => commandWord code ign
  | .rdCtrl low => readAt 0#3 low
  | .rdStatus low => readAt 1#3 low
  | .rdBase low => readAt 2#3 low
  | .rdLen low => readAt 3#3 low
  | .rdHash8 low => readAt 4#3 low
  | .rdHash64Lo low => readAt 5#3 low
  | .rdHash64Hi low => readAt 6#3 low
  | .rdRsvd low => readAt 7#3 low
  | .wrCtrl low data => writeAt 0#3 low data
  | .wrStatus low data => writeAt 1#3 low data
  | .wrBase low data => writeAt 2#3 low data
  | .wrLen low data => writeAt 3#3 low data
  | .wrHash8 low data => writeAt 4#3 low data
  | .wrHash64Lo low data => writeAt 5#3 low data
  | .wrHash64Hi low data => writeAt 6#3 low data
  | .wrRsvd low data => writeAt 7#3 low data

/-- An item as the wires carry it: a read has no data word (R90), so what stands in its place is dropped. -/
def HostItem.canonical : HostItem → HostItem
  | .access code data => .access code (if weOf code then data else 0#32)
  | .command word => .command word

/-- Is the item a host read (WE = 0)? A command is a write to CTRL (R90, R92). -/
def HostItem.isRead : HostItem → Bool
  | .access code _ => !weOf code
  | .command _ => false

/-- The access an item makes on the wires: a command is the write of its word to CTRL (R92, R99). -/
def HostItem.onWires : HostItem → HostItem
  | .access code data => .access code data
  | .command word => writeAt 0#3 0#2 word

/-! ### The opcode table -/

/-- A row of spec/opcode_table.json: its pattern and the mask of its fixed bits, as numbers of `width` bits. -/
structure OpRow (width : Nat) where
  mnemonic : String
  pattern : BitVec width
  mask : BitVec width
  deriving DecidableEq, Repr

/-- A word is the row's when its fixed bits are the pattern's. -/
def OpRow.selects {width : Nat} (r : OpRow width) (w : BitVec width) : Bool := w &&& r.mask == r.pattern

/-- The rows of format CMD (R93). -/
def commandRows : List (OpRow 32) :=
  [⟨"CMD_NOP", 0x00000000, 0x00000007⟩, ⟨"CMD_HASH8", 0x00000001, 0x00000007⟩,
   ⟨"CMD_HASH64", 0x00000002, 0x00000007⟩, ⟨"CMD_CLEAR", 0x00000003, 0x00000007⟩,
   ⟨"CMD_RESERVED", 0x00000004, 0x00000004⟩]

/-- The rows of format HBUS (R90, R91). -/
def accessRows : List (OpRow 6) :=
  [⟨"RD_CTRL", 0x00, 0x3C⟩, ⟨"RD_STATUS", 0x04, 0x3C⟩, ⟨"RD_BASE", 0x08, 0x3C⟩, ⟨"RD_LEN", 0x0C, 0x3C⟩,
   ⟨"RD_HASH8", 0x10, 0x3C⟩, ⟨"RD_HASH64_LO", 0x14, 0x3C⟩, ⟨"RD_HASH64_HI", 0x18, 0x3C⟩, ⟨"RD_RSVD", 0x1C, 0x3C⟩,
   ⟨"WR_CTRL", 0x20, 0x3C⟩, ⟨"WR_STATUS", 0x24, 0x3C⟩, ⟨"WR_BASE", 0x28, 0x3C⟩, ⟨"WR_LEN", 0x2C, 0x3C⟩,
   ⟨"WR_HASH8", 0x30, 0x3C⟩, ⟨"WR_HASH64_LO", 0x34, 0x3C⟩, ⟨"WR_HASH64_HI", 0x38, 0x3C⟩, ⟨"WR_RSVD", 0x3C, 0x3C⟩]

/-- The mnemonic of an instruction, as spec/opcode_table.json spells it. -/
def Instr.mnemonic : Instr → String
  | .cmdNop _ => "CMD_NOP"
  | .cmdHash8 _ => "CMD_HASH8"
  | .cmdHash64 _ => "CMD_HASH64"
  | .cmdClear _ => "CMD_CLEAR"
  | .cmdReserved _ _ => "CMD_RESERVED"
  | .rdCtrl _ => "RD_CTRL"
  | .rdStatus _ => "RD_STATUS"
  | .rdBase _ => "RD_BASE"
  | .rdLen _ => "RD_LEN"
  | .rdHash8 _ => "RD_HASH8"
  | .rdHash64Lo _ => "RD_HASH64_LO"
  | .rdHash64Hi _ => "RD_HASH64_HI"
  | .rdRsvd _ => "RD_RSVD"
  | .wrCtrl _ _ => "WR_CTRL"
  | .wrStatus _ _ => "WR_STATUS"
  | .wrBase _ _ => "WR_BASE"
  | .wrLen _ _ => "WR_LEN"
  | .wrHash8 _ _ => "WR_HASH8"
  | .wrHash64Lo _ _ => "WR_HASH64_LO"
  | .wrHash64Hi _ _ => "WR_HASH64_HI"
  | .wrRsvd _ _ => "WR_RSVD"

/-! ### Words numbered as the table numbers them (log entry 14) -/

/-- Why a numbered word is not an item of the host's stream. -/
inductive DecodeError where
  /-- Neither format has this many bits. -/
  | noFormatOfWidth (nbits : Nat)
  /-- A command word has 32 bits (R92). -/
  | commandWordTooWide (w : Nat)
  /-- An access code has 6 bits (R90). -/
  | accessCodeTooWide (w : Nat)
  /-- A data word has 32 bits (R90). -/
  | dataWordTooWide (w : Nat)
  deriving DecidableEq, Repr

/-- The item whose bits are `w`. 32 bits are a command word. 6 bits, or 8 (one byte holds the access code), or 40 (that
byte, then the data word, least significant byte first, R68) are an access; a missing data word is 0. -/
def itemOfWord (nbits w : Nat) : Except DecodeError HostItem :=
  if nbits = 32 then
    if w < 2 ^ 32 then .ok (.command (BitVec.ofNat 32 w)) else .error (.commandWordTooWide w)
  else if nbits = 6 ∨ nbits = 8 ∨ nbits = 40 then
    if w % 256 < 64 then
      if w / 256 < 2 ^ 32 then .ok (.access (BitVec.ofNat 6 (w % 256)) (BitVec.ofNat 32 (w / 256)))
      else .error (.dataWordTooWide w)
    else .error (.accessCodeTooWide w)
  else .error (.noFormatOfWidth nbits)

/-- The instruction the decoder reads from a word of the opcode table. -/
def decodeTableWord (nbits w : Nat) : Option Instr :=
  match itemOfWord nbits w with
  | .ok item => some (decode item)
  | .error _ => none

end Sys2Proof
end

