-- ==== Sys2Proof/Config.lean ====
section
/-! DEFINITION. The implementation parameters AW, LW, TABLE and ENGINES (spec/00_scope.md R6–R9), and the model's free
values: the default table's unknown entries and the byte a read of a disturbed message byte returns. -/

namespace Sys2Proof

/-- The contents of the substitution LUT: a total function from 8-bit index to 8-bit value, as data (R8, R120, R121).
A table that is not total cannot be written (spec/93 U2), and no permutation is asked for (R123). -/
inductive Table where
  /-- The repository's table, the default. Four of its entries are known (`Config.defaultEntry`; log entry 2). -/
  | repository
  /-- A table with all 256 entries given. -/
  | given (entries : Vector Byte 256)
  deriving DecidableEq, Repr

/-- The number of byte-hash engines: 1 (sequential) or 8 (parallel) (R9). -/
inductive Engines where
  | one
  | eight
  deriving DecidableEq, Repr

/-- The number the parameter ENGINES stands for (R9). -/
def Engines.count : Engines → Nat
  | .one => 1
  | .eight => 8

/-- The configuration: fixed for the machine, a parameter of the step relation (R10). -/
structure Config where
  /-- `AW`, the address width of the message read port (R6). -/
  aw : Nat
  /-- `LW`, the width of LEN and IDX (R7). -/
  lw : Nat
  /-- `ENGINES` (R9). -/
  engines : Engines
  /-- `TABLE` (R8). -/
  table : Table
  deriving DecidableEq, Repr

/-- The legal values of the parameters: 1 ≤ LW ≤ AW ≤ 32 (R6, R7); every ENGINES and every TABLE is legal (R9, R123). -/
def Config.legal (c : Config) : Bool :=
  decide (1 ≤ c.lw) && decide (c.lw ≤ c.aw) && decide (c.aw ≤ 32)

/-- FREE VALUE. The entries of the repository's table that the spec does not give (spec/91 N1, spec/92 D31 OPEN): no
body, so nothing in Lean can evaluate it (log entry 2). -/
opaque Config.repositoryEntry : Byte → Byte

/-- FREE VALUE. The byte of the n-th draw: "any 8-bit value, chosen freshly at each read" (spec/20_memory.md R78). No
body, so nothing in Lean can evaluate it (log entry 7). -/
opaque Config.drawnByte : Nat → Byte

/-- An entry of the default TABLE: the four entries of spec/40_lut.md R124, and a free value at every other index. -/
def Config.defaultEntry (i : Byte) : Byte :=
  if i = 0x00#8 then 98#8
  else if i = 0x01#8 then 6#8
  else if i = 0x61#8 then 208#8
  else if i = 0x68#8 then 98#8
  else Config.repositoryEntry i

/-- A table from its entries. -/
def Table.ofEntries (f : Byte → Byte) : Table := .given (Vector.ofFn fun i => f (BitVec.ofNat 8 i.val))

/-- The default configuration: AW = 32, LW = 32, ENGINES = 1, the repository's table (spec/92 D35). -/
def Config.default : Config where
  aw := 32
  lw := 32
  engines := .one
  table := .repository

/-- The identity string of the core (spec/00_scope.md R2). -/
def Config.identity (c : Config) : String :=
  "pearson_hash_core/v1 (ENGINES=" ++ toString c.engines.count ++ ", AW=" ++ toString c.aw ++ ", LW=" ++ toString c.lw ++ ")"

end Sys2Proof
end

