-- ==== Sys2Proof/Machine/State.lean ====
section
/-! DEFINITION. The state of the machine as plain data: the whole tuple of spec/10_state.md R22, the message memory
(spec/20_memory.md R60), the inputs still to come, and the reset state of spec/10_state.md R49. -/

namespace Sys2Proof.Machine

/-- OP, the running operation (R39). -/
inductive Op where
  /-- NONE: idle. -/
  | none
  /-- H8: a HASH8 operation. -/
  | h8
  /-- H64: a HASH64 operation. -/
  | h64
  deriving DecidableEq, Repr

/-- The error flags `raise` can set (spec/60_exceptions.md R231). -/
inductive ErrorFlag where
  /-- ERR_EMPTY, code 2 (R233). -/
  | empty
  /-- ERR_CMD, code 3 (R234). -/
  | cmd
  /-- ERR_BUSY, code 4 (R235). -/
  | busy
  deriving DecidableEq, Repr

/-- Why a step stops with a fault. There is no constructor: "the core has no trap" and no error stops it
(spec/60_exceptions.md R230, R236), and every address is readable (spec/20_memory.md R71). Nothing raises one, which
is exact for this device and unsafe only for a platform whose memory fails a read (log entry 19). -/
inductive Fault where
  deriving DecidableEq, Repr

/-- Why a step has no meaning. -/
inductive Refusal where
  /-- An instruction with no meaning yet, rejected by name in `exec`'s arm. No arm raises it: every row of the opcode
  table has its meaning. Safe: a refused step proves nothing about the hardware. -/
  | notModelled (mnemonic : String)
  deriving DecidableEq, Repr

/-- The message memory: (address, byte) pairs in canonical form, addresses strictly rising and no byte equal to what an
unlisted address reads as (`Memory.unlisted` of Machine/Ops.lean). -/
abbrev Memory := List Host.Cell

/-- What reaches the core from outside in one clock cycle (log entry 3). -/
structure Cycle where
  /-- The reset input `rst` (spec/70_reset_and_hazards.md R260). -/
  rst : Bool := false
  /-- The host access of the cycle; `none` is `hsel` = 0 (spec/30_encoding.md R90). -/
  host : Option HostItem := none
  /-- The bytes that the host or another agent writes to the message memory by a path outside the core
  (spec/00_scope.md R10, spec/20_memory.md R78), in order. -/
  stores : List (Word × Byte) := []
  /-- `m_ack`: the message memory answers the read requested in this cycle (spec/20_memory.md R62). -/
  ack : Bool := false
  /-- The step that needs no read takes its byte in a later cycle: "an engine step takes at least one cycle"
  (spec/70_reset_and_hazards.md R274, log entry 10). -/
  steerWait : Bool := false
  deriving DecidableEq, Repr

/-- The machine. -/
structure State where
  /-- The configuration, which no step changes (spec/00_scope.md R10; log entry 1). -/
  cfg : Config
  /-- BASE, AW bits (R24). -/
  base : Word
  /-- LEN, LW bits (R25). -/
  len : Word
  /-- HASH8 (R26). -/
  hash8 : Byte
  /-- HASH64 (R27). -/
  hash64 : Dword
  /-- STATUS.DONE (R33). -/
  done : Bool
  /-- STATUS.ERR_EMPTY (R34). -/
  errEmpty : Bool
  /-- STATUS.ERR_CMD (R35). -/
  errCmd : Bool
  /-- STATUS.ERR_BUSY (R36). -/
  errBusy : Bool
  /-- OP (R39); STATUS.BUSY is OP ≠ NONE (R32, log entry 22). -/
  op : Op
  /-- IDX, the message indexer, LW bits (R40). -/
  idx : Word
  /-- ITER (R42). -/
  iter : BitVec 3
  /-- FB, the first-byte register (R43). -/
  fb : Byte
  /-- LANES, which exists only when ENGINES = 1 (R44). -/
  lanes : Dword
  /-- ACCV[0..7]; lane 0 is ACC, lanes 1–7 exist only when ENGINES = 8 (R41, R45; log entry 11). -/
  accv : Vector Byte 8
  /-- RDPEND: a read request is outstanding (spec/20_memory.md R62). -/
  rdpend : Bool
  /-- The message memory, outside the core (R60; log entry 5). -/
  mem : Memory
  /-- `hrdata`: the word the most recent host read returned (spec/30_encoding.md R90; log entry 4). -/
  hrdata : Word
  /-- The addresses another agent has written since the running operation was accepted (R78, R270; log entry 7). -/
  disturbed : List Nat
  /-- How many draws have been made (R78; log entry 7). -/
  draws : Nat
  /-- The input cycles still to come, the next one first (log entry 3). -/
  inputs : List Cycle
  deriving DecidableEq, Repr

/-- The machine of a configuration right after reset: every element at its value of spec/10_state.md R49, nothing in
message memory and no input (log entries 3, 4, 5, 7). -/
def State.resetWith (c : Config) : State where
  cfg := c
  base := 0#32
  len := 0#32
  hash8 := 0#8
  hash64 := 0#64
  done := false
  errEmpty := false
  errCmd := false
  errBusy := false
  op := .none
  idx := 0#32
  iter := 0#3
  fb := 0#8
  lanes := 0#64
  accv := Vector.replicate 8 0#8
  rdpend := false
  mem := []
  hrdata := 0#32
  disturbed := []
  draws := 0
  inputs := []

/-- The machine right after reset, with the default parameters (spec/92_eei_decisions.md D35). -/
def State.reset : State := State.resetWith Config.default

end Sys2Proof.Machine
end

