-- ==== Sys2Proof/Machine/Flags.lean ====
section
/-! DEFINITION. The STATUS register (spec/10_state.md R31–R38) and the level outputs that show it (spec/60_exceptions.md
R238). -/

namespace Sys2Proof.Machine

/-- STATUS.BUSY: an operation is running (R32, R39). -/
def State.busy (s : State) : Bool := s.op != .none

/-- STATUS.PAR: 1 if ENGINES = 8 (R37). -/
def State.par (s : State) : Bool := s.cfg.engines == .eight

/-- The word a read of STATUS returns: `{23'b0, PAR, 3'b0, ERR_BUSY, ERR_CMD, ERR_EMPTY, DONE, BUSY}` (R31, R38 and
spec/43_control.md R212). -/
def State.statusWord (s : State) : Word :=
  0#23 ++ BitVec.ofBool s.par ++ 0#3 ++ BitVec.ofBool s.errBusy ++ BitVec.ofBool s.errCmd ++ BitVec.ofBool s.errEmpty
    ++ BitVec.ofBool s.done ++ BitVec.ofBool s.busy

/-- The flag a `raise` sets, as it stands (R231). -/
def State.flag (s : State) : ErrorFlag → Bool
  | .empty => s.errEmpty
  | .cmd => s.errCmd
  | .busy => s.errBusy

/-- The cause code of an error: its bit position in STATUS (R232). -/
def ErrorFlag.code : ErrorFlag → Nat
  | .empty => 2
  | .cmd => 3
  | .busy => 4

/-- The output `busy`, a level equal to STATUS.BUSY (R238). -/
def State.busyOut (s : State) : Bool := s.busy

/-- The output `done`, a level equal to STATUS.DONE (R238). -/
def State.doneOut (s : State) : Bool := s.done

end Sys2Proof.Machine
end

