-- ==== Sys2Proof/Machine/Ops.lean ====
section
/-! DEFINITION. The shared operations: fields of AW and LW bits, the message memory, raising and clearing the error flags
(this core's whole exception mechanism), returning a read word, accepting a start, `finish`, the LUT read, lanes of the
64-bit result, and the effect of a reset cycle. -/

namespace Sys2Proof.Machine

/-! ### Fields -/

/-- `v[n-1:0]`, zero-extended to 32 bits: what a register of n bits keeps of a word (spec/00_scope.md R11). -/
def keepLow (n : Nat) (v : Word) : Word := BitVec.ofNat 32 (v.toNat % 2 ^ n)

/-! ### The message memory (spec/20_memory.md R60) -/

/-- What an address that is not listed reads as. The spec gives memory no contents; DESIGN CHOICE (log entry 5). -/
def Memory.unlisted : Byte := 0#8

/-- One byte of memory (R60: "every address holds one 8-bit value"). -/
def Memory.read : Memory → Nat → Byte
  | [], _ => Memory.unlisted
  | (a', b') :: m, a => if a' = a then b' else Memory.read m a

/-- Put `b` before `m` at address `a`, or leave it out where it is what an unlisted address reads as. -/
def Memory.cons (a : Nat) (b : Byte) (m : Memory) : Memory := if b = Memory.unlisted then m else (a, b) :: m

/-- Write one byte, keeping the canonical form. -/
def Memory.write : Memory → Nat → Byte → Memory
  | [], a, b => Memory.cons a b []
  | (a', b') :: m, a, b =>
    if a < a' then Memory.cons a b ((a', b') :: m)
    else if a = a' then Memory.cons a b m
    else (a', b') :: Memory.write m a b

/-- The canonical form from address `lo` on: addresses strictly rising, no listed byte the unlisted one. -/
def Memory.wfFrom : Nat → Memory → Bool
  | _, [] => true
  | lo, (a, b) :: m => decide (lo ≤ a) && (b != Memory.unlisted) && Memory.wfFrom (a + 1) m

/-- The canonical form: equal memories are equal lists. -/
def Memory.wf (m : Memory) : Bool := Memory.wfFrom 0 m

/-- Every listed address is below `n`. -/
def Memory.within (m : Memory) (n : Nat) : Bool := m.all fun cell => decide (cell.1 < n)

/-! ### Raising an error, and clearing the flags -/

/-- `raise E`: set the error flag E of STATUS. Nothing traps, nothing else changes, a flag that is 1 stays 1
(spec/60_exceptions.md R231, R239). -/
def State.raise (s : State) : ErrorFlag → State
  | .empty => { s with errEmpty := true }
  | .cmd => { s with errCmd := true }
  | .busy => { s with errBusy := true }

/-- Clear the completion and error flags: the one operation that re-arms them (spec/43_control.md R201,
spec/60_exceptions.md R240). -/
def State.clearFlags (s : State) : State :=
  { s with done := false, errEmpty := false, errCmd := false, errBusy := false }

/-! ### Host reads -/

/-- A host read returns a word on `hrdata` and changes nothing of the core (spec/43_control.md R209). -/
def State.returnWord (s : State) (w : Word) : State := { s with hrdata := w }

/-! ### Starting and ending an operation -/

/-- Accepting a HASH8 or HASH64 clears DONE and ERR_EMPTY (spec/10_state.md R33, R34). -/
def State.acceptStart (s : State) : State := { s with done := false, errEmpty := false }

/-- ACC, which is ACCV[0] under another name (spec/10_state.md R41, R45). -/
def State.acc (s : State) : Byte := s.accv[0]

/-- Write ACC (R41). -/
def State.setAcc (s : State) (b : Byte) : State := { s with accv := s.accv.set 0 b }

/-- `finish`: end the running operation (spec/41_byte_hash.md R150). RDPEND is 0 already. -/
def State.finish (s : State) : State := { s with op := .none, done := true }

/-! ### The LUT and the lanes -/

/-- The LUT read `T[i]` (spec/40_lut.md R122). -/
def lut : Table → Byte → Byte
  | .repository, i => Config.defaultEntry i
  | .given entries, i => entries[i.toNat]'i.isLt

/-- Lane k of a 64-bit value, bits [8k+7:8k] (spec/42_hash64.md R171). -/
def laneOf (r : Dword) (k : Nat) : Byte := r.extractLsb' (8 * k) 8

/-- `r[8k+7:8k] <- b`, the other bits as they are (spec/42_hash64.md R178). -/
def setLane (r : Dword) (k : Nat) (b : Byte) : Dword :=
  (r &&& ~~~(0xFF#64 <<< (8 * k))) ||| (b.setWidth 64 <<< (8 * k))

/-- `{v[7], v[6], …, v[0]}` (spec/42_hash64.md R181). -/
def packLanes (v : Vector Byte 8) : Dword :=
  v[7] ++ v[6] ++ v[5] ++ v[4] ++ v[3] ++ v[2] ++ v[1] ++ v[0]

/-! ### Reset cycles and the input stream -/

/-- What a cycle with `rst` = 1 does to the state: every element to its reset value (spec/70_reset_and_hazards.md R261,
R262). The configuration (R263), the message memory (R262) and the model's own fields are not the core's to reset. -/
def State.coreReset (s : State) : State :=
  { State.resetWith s.cfg with mem := s.mem, hrdata := s.hrdata, draws := s.draws, inputs := s.inputs }

/-- The input of the coming cycle; past the end of the list nothing is presented (log entry 3). -/
def State.nextCycle (s : State) : Cycle := s.inputs.headD {}

/-- The machine with that input taken off the list. -/
def State.popInput (s : State) : State := { s with inputs := s.inputs.tail }

/-- Present a host access in the coming cycle, in place of the one that stood there, with no reset in that cycle. -/
def State.presentItem (s : State) (item : HostItem) : State :=
  { s with inputs := { s.nextCycle with rst := false, host := some item } :: s.inputs.tail }

end Sys2Proof.Machine
end

