-- ==== Sys2Proof/Machine/Operands.lean ====
section
/-! DEFINITION. Where the operands come from: the written operand registers (spec/30_encoding.md R96), the effective
address of a message byte (spec/20_memory.md R63), the byte the engine consumes (spec/41_byte_hash.md R145, R146,
spec/42_hash64.md R175, R176), and what the message read port shows (R62). -/

namespace Sys2Proof.Machine

/-- BASE as written from a data word: `data[AW-1:0]` (R96, R206). -/
def State.baseOperand (s : State) (data : Word) : Word := keepLow s.cfg.aw data

/-- LEN as written from a data word: `data[LW-1:0]` (R96, R206). -/
def State.lenOperand (s : State) (data : Word) : Word := keepLow s.cfg.lw data

/-- `addr(i) = (BASE + zext_AW(i)) mod 2^AW` (R63). -/
def State.msgAddr (s : State) (i : Nat) : Word := keepLow s.cfg.aw (s.base + BitVec.ofNat 32 i)

/-- The message: the LEN bytes at addr(0) … addr(LEN−1) (spec/00_scope.md R14). -/
def State.message (s : State) : List Byte :=
  (List.range s.len.toNat).map fun i => s.mem.read (s.msgAddr i).toNat

/-- Is the coming step the i = 0 step of an iteration 1…7 of the sequential HASH64, whose byte is steered and not read
(R175)? -/
def State.steered (s : State) : Bool :=
  s.op == .h64 && s.cfg.engines == .one && s.idx == 0#32 && s.iter != 0#3

/-- Does the coming engine step need a message read (R145, R175, R180)? -/
def State.readNeeded (s : State) : Bool := s.busy && !s.steered

/-- First-byte perturbation steering: `(FB + zext_8(k)) mod 256` with k = ITER (R176). -/
def State.steeredByte (s : State) : Byte := s.fb + s.iter.setWidth 8

/-- The output `m_req`: a read is requested. A reset cycle drives it 0 (R62, R145, spec/70_reset_and_hazards.md R261). -/
def State.mReq (s : State) (c : Cycle) : Bool := !c.rst && s.readNeeded

/-- The output `m_addr` while `m_req` = 1: the address of message byte IDX (R62, R63). -/
def State.mAddr (s : State) : Word := s.msgAddr s.idx.toNat

/-- The byte the memory answers at `m_addr`, and the draws made after it: the byte memory holds, or, at an address that
another agent has written during the operation, a draw (R72, R78). -/
def State.answer (s : State) : Byte × Nat :=
  if s.mAddr.toNat ∈ s.disturbed then (Config.drawnByte s.draws, s.draws + 1)
  else (s.mem.read s.mAddr.toNat, s.draws)

/-- One write to message memory by the host's own path or another agent, at an AW-bit address; during an operation it
disturbs that address (R78, R270; log entry 6). -/
def State.platformStore (s : State) (store : Word × Byte) : State :=
  let a := (keepLow s.cfg.aw store.1).toNat
  { s with
    mem := s.mem.write a store.2
    disturbed := if s.busy then s.disturbed.insert a else s.disturbed }

/-- The cycle's writes to message memory, in order. -/
def State.platformStores (s : State) (stores : List (Word × Byte)) : State := stores.foldl State.platformStore s

end Sys2Proof.Machine
end

