-- ==== Sys2Proof/Machine/HostRead.lean ====
section
/-! DEFINITION. The host reads (spec/43_control.md R209–R218). haddr[1:0] is ignored (spec/20_memory.md R69). -/

namespace Sys2Proof.Machine

/-- `RD CTRL` returns 0 (R211). -/
def execRdCtrl (_low : BitVec 2) (s : State) : Host.Outcome State Fault Refusal := .next (s.returnWord 0#32)

/-- `RD STATUS` returns the flags (R212). -/
def execRdStatus (_low : BitVec 2) (s : State) : Host.Outcome State Fault Refusal := .next (s.returnWord s.statusWord)

/-- `RD BASE` returns `zext_32(BASE)` (R213). -/
def execRdBase (_low : BitVec 2) (s : State) : Host.Outcome State Fault Refusal := .next (s.returnWord s.base)

/-- `RD LEN` returns `zext_32(LEN)` (R214). -/
def execRdLen (_low : BitVec 2) (s : State) : Host.Outcome State Fault Refusal := .next (s.returnWord s.len)

/-- `RD HASH8` returns `zext_32(HASH8)` (R215). -/
def execRdHash8 (_low : BitVec 2) (s : State) : Host.Outcome State Fault Refusal :=
  .next (s.returnWord (s.hash8.setWidth 32))

/-- `RD HASH64_LO` returns HASH64[31:0] (R216). -/
def execRdHash64Lo (_low : BitVec 2) (s : State) : Host.Outcome State Fault Refusal :=
  .next (s.returnWord (s.hash64.extractLsb' 0 32))

/-- `RD HASH64_HI` returns HASH64[63:32] (R217). -/
def execRdHash64Hi (_low : BitVec 2) (s : State) : Host.Outcome State Fault Refusal :=
  .next (s.returnWord (s.hash64.extractLsb' 32 32))

/-- `RD` of the reserved offset 0x1C returns 0 (R218). -/
def execRdRsvd (_low : BitVec 2) (s : State) : Host.Outcome State Fault Refusal := .next (s.returnWord 0#32)

end Sys2Proof.Machine
end

