-- ==== Sys2Proof/Machine/ByteHash.lean ====
section
/-! DEFINITION. The 8-bit hash (spec/41_byte_hash.md): its functional definition, the HASH8 command, and the step of the
accumulator and message indexer. -/

namespace Sys2Proof.Machine

/-- `byteHash(m, T)` (R140). -/
def byteHash (m : List Byte) (t : Table) : Byte := m.foldl (fun acc b => lut t (acc ^^^ b)) 0#8

/-- HASH8, in the cycle of the CTRL write (R143, R144, spec/43_control.md R203). -/
def State.startHash8 (s : State) : State :=
  if s.busy then s.raise .busy
  else if s.len = 0#32 then { s.acceptStart with hash8 := 0#8, done := true }
  else { s.acceptStart.setAcc 0#8 with op := .h8, idx := 0#32, disturbed := [] }

/-- `CMD HASH8` (R143). -/
def execCmdHash8 (_ign : BitVec 29) (s : State) : Host.Outcome State Fault Refusal := .next s.startHash8

/-- Is the step at index IDX the last of its byte-hash run: `zext(i) + 1 = LEN`, computed without overflow (R148)? -/
def State.lastByte (s : State) : Bool := s.idx.toNat + 1 == s.len.toNat

/-- `IDX <- IDX + 1`, in LW bits (R147). -/
def State.nextIdx (s : State) : Word := keepLow s.cfg.lw (s.idx + 1#32)

/-- The new accumulator value of an engine step: `T[ACC XOR b]` (R147). -/
def State.fold (s : State) (b : Byte) : Byte := lut s.cfg.table (s.acc ^^^ b)

/-- The engine step of a HASH8 operation with consumed byte `b` (R147–R150, R152). -/
def State.stepHash8 (s : State) (b : Byte) : State :=
  let acc := s.fold b
  if s.lastByte then { s.setAcc acc with hash8 := acc }.finish
  else { s.setAcc acc with idx := s.nextIdx }

end Sys2Proof.Machine
end

