-- ==== Sys2Proof/Machine/Hash64.lean ====
section
/-! DEFINITION. The 64-bit hash (spec/42_hash64.md): its functional definition, the HASH64 command, and the engine steps
of the sequential (ENGINES = 1) and the parallel (ENGINES = 8) organisation. -/

namespace Sys2Proof.Machine

/-- `m with m0 := (m0 + k) mod 256` (spec/00_scope.md R14, R170). -/
def perturb : List Byte → Nat → List Byte
  | [], _ => []
  | m0 :: m, k => (m0 + BitVec.ofNat 8 k) :: m

/-- `hash64(m, T)`, defined for a non-empty `m`: the sum over k = 0…7 of byteHash of the perturbed message, shifted to
lane k, added in 64 bits (R170). -/
def hash64 (m : List Byte) (t : Table) : Dword :=
  (List.range 8).foldl (fun r k => r + ((byteHash (perturb m k) t).setWidth 64 <<< (8 * k))) 0#64

/-- HASH64, in the cycle of the CTRL write (R173, R174, spec/43_control.md R203). -/
def State.startHash64 (s : State) : State :=
  if s.busy then s.raise .busy
  else if s.len = 0#32 then { s.acceptStart.raise .empty with done := true }
  else match s.cfg.engines with
    | .one => { s.acceptStart.setAcc 0#8 with op := .h64, iter := 0#3, idx := 0#32, lanes := 0#64, disturbed := [] }
    | .eight =>
      { s.acceptStart with op := .h64, iter := 0#3, idx := 0#32, accv := Vector.replicate 8 0#8, disturbed := [] }

/-- `CMD HASH64` (R173). -/
def execCmdHash64 (_ign : BitVec 29) (s : State) : Host.Outcome State Fault Refusal := .next s.startHash64

/-- FB after a step: the step at i = 0, k = 0 keeps the byte it reads, no other step writes FB (R177). -/
def State.capturedFb (s : State) (b : Byte) : Byte := if s.idx = 0#32 ∧ s.iter = 0#3 then b else s.fb

/-- The sequential engine step with consumed byte `b` (R175, R147, R148, R178, R179). -/
def State.stepHash64Seq (s : State) (b : Byte) : State :=
  let acc := s.fold b
  if s.lastByte then
    if s.iter = 7#3 then
      { s.setAcc acc with fb := s.capturedFb b, hash64 := acc ++ s.lanes.extractLsb' 0 56 }.finish
    else
      { s.setAcc 0#8 with
        fb := s.capturedFb b, lanes := setLane s.lanes s.iter.toNat acc, iter := s.iter + 1#3, idx := 0#32 }
  else { s.setAcc acc with fb := s.capturedFb b, idx := s.nextIdx }

/-- Lane k's byte of a parallel step: `(b + k) mod 256` at index 0, else `b` (R180). -/
def State.laneByte (s : State) (b : Byte) (k : Nat) : Byte := if s.idx = 0#32 then b + BitVec.ofNat 8 k else b

/-- ACCV', the eight values a parallel step computes (R180). -/
def State.foldLanes (s : State) (b : Byte) : Vector Byte 8 :=
  s.accv.mapIdx fun k a => lut s.cfg.table (a ^^^ s.laneByte b k)

/-- The parallel engine step with the byte `b` read (R180, R181). -/
def State.stepHash64Par (s : State) (b : Byte) : State :=
  let accv := s.foldLanes b
  let fb := if s.idx = 0#32 then b else s.fb
  if s.lastByte then { s with fb := fb, accv := accv, hash64 := packLanes accv }.finish
  else { s with fb := fb, accv := accv, idx := s.nextIdx }

/-- The engine step of a HASH64 operation (R9, R175–R181). -/
def State.stepHash64 (s : State) (b : Byte) : State :=
  match s.cfg.engines with
  | .one => s.stepHash64Seq b
  | .eight => s.stepHash64Par b

end Sys2Proof.Machine
end

