-- ==== Sys2Proof/Machine/Control.lean ====
section
/-! DEFINITION. The remaining commands: NOP, CLEAR and the reserved codes (spec/43_control.md R200–R202), and the decoding
of a command word written to CTRL (R205). -/

namespace Sys2Proof.Machine

/-- `CMD NOP`: nothing changes (R200). -/
def execCmdNop (_ign : BitVec 29) (s : State) : Host.Outcome State Fault Refusal := .next s

/-- `CMD CLEAR`: clear DONE and the error flags; a running operation goes on (R201). -/
def execCmdClear (_ign : BitVec 29) (s : State) : Host.Outcome State Fault Refusal := .next s.clearFlags

/-- The reserved command codes: `raise ERR_CMD` and nothing else, busy or not (R95, R202). -/
def execCmdReserved (_code : BitVec 3) (_ign : BitVec 29) (s : State) : Host.Outcome State Fault Refusal :=
  .next (s.raise .cmd)

/-- A command word written to CTRL: its OPC selects the command's rule; bits 31:3 are ignored (R93, R94, R205). -/
def State.issueCommand (s : State) (word : Word) : State :=
  match (opcOf word).toNat with
  | 0 => s
  | 1 => s.startHash8
  | 2 => s.startHash64
  | 3 => s.clearFlags
  | _ => s.raise .cmd

end Sys2Proof.Machine
end

