-- ==== Sys2Proof/Machine/HostWrite.lean ====
section
/-! DEFINITION. The host writes (spec/43_control.md R204–R208). haddr[1:0] is ignored (spec/20_memory.md R69). -/

namespace Sys2Proof.Machine

/-- `WR CTRL` issues the command its data word holds (R205). -/
def execWrCtrl (_low : BitVec 2) (data : Word) (s : State) : Host.Outcome State Fault Refusal :=
  .next (s.issueCommand data)

/-- A write to an operand register while BUSY = 1 is discarded and raises ERR_BUSY (R207); else it takes effect (R206). -/
def State.unlessBusy (s written : State) : State := if s.busy then s.raise .busy else written

/-- `WR BASE`: `BASE <- data[AW-1:0]` (R206, R207). -/
def execWrBase (_low : BitVec 2) (data : Word) (s : State) : Host.Outcome State Fault Refusal :=
  .next (s.unlessBusy { s with base := s.baseOperand data })

/-- `WR LEN`: `LEN <- data[LW-1:0]` (R206, R207). -/
def execWrLen (_low : BitVec 2) (data : Word) (s : State) : Host.Outcome State Fault Refusal :=
  .next (s.unlessBusy { s with len := s.lenOperand data })

/-- A write to a read-only register or the reserved offset: no state changes and no flag is raised (R208). -/
def State.discardWrite (s : State) (_data : Word) : State := s

/-- `WR STATUS` is discarded (R208). -/
def execWrStatus (_low : BitVec 2) (data : Word) (s : State) : Host.Outcome State Fault Refusal :=
  .next (s.discardWrite data)

/-- `WR HASH8` is discarded (R208). -/
def execWrHash8 (_low : BitVec 2) (data : Word) (s : State) : Host.Outcome State Fault Refusal :=
  .next (s.discardWrite data)

/-- `WR HASH64_LO` is discarded (R208). -/
def execWrHash64Lo (_low : BitVec 2) (data : Word) (s : State) : Host.Outcome State Fault Refusal :=
  .next (s.discardWrite data)

/-- `WR HASH64_HI` is discarded (R208). -/
def execWrHash64Hi (_low : BitVec 2) (data : Word) (s : State) : Host.Outcome State Fault Refusal :=
  .next (s.discardWrite data)

/-- `WR` of the reserved offset 0x1C is discarded (R208). -/
def execWrRsvd (_low : BitVec 2) (data : Word) (s : State) : Host.Outcome State Fault Refusal :=
  .next (s.discardWrite data)

end Sys2Proof.Machine
end

