-- ==== Sys2Proof/Machine/Dispatch.lean ====
section
/-! DEFINITION. One arm per row of spec/opcode_table.json: the meaning of each instruction. -/

namespace Sys2Proof.Machine

def exec (i : Instr) (s : State) : Host.Outcome State Fault Refusal :=
  match i with
  | .cmdNop ign => Sys2Proof.Machine.execCmdNop ign s
  | .cmdHash8 ign => Sys2Proof.Machine.execCmdHash8 ign s
  | .cmdHash64 ign => Sys2Proof.Machine.execCmdHash64 ign s
  | .cmdClear ign => Sys2Proof.Machine.execCmdClear ign s
  | .cmdReserved code ign => Sys2Proof.Machine.execCmdReserved code ign s
  | .rdCtrl low => Sys2Proof.Machine.execRdCtrl low s
  | .rdStatus low => Sys2Proof.Machine.execRdStatus low s
  | .rdBase low => Sys2Proof.Machine.execRdBase low s
  | .rdLen low => Sys2Proof.Machine.execRdLen low s
  | .rdHash8 low => Sys2Proof.Machine.execRdHash8 low s
  | .rdHash64Lo low => Sys2Proof.Machine.execRdHash64Lo low s
  | .rdHash64Hi low => Sys2Proof.Machine.execRdHash64Hi low s
  | .rdRsvd low => Sys2Proof.Machine.execRdRsvd low s
  | .wrCtrl low data => Sys2Proof.Machine.execWrCtrl low data s
  | .wrStatus low data => Sys2Proof.Machine.execWrStatus low data s
  | .wrBase low data => Sys2Proof.Machine.execWrBase low data s
  | .wrLen low data => Sys2Proof.Machine.execWrLen low data s
  | .wrHash8 low data => Sys2Proof.Machine.execWrHash8 low data s
  | .wrHash64Lo low data => Sys2Proof.Machine.execWrHash64Lo low data s
  | .wrHash64Hi low data => Sys2Proof.Machine.execWrHash64Hi low data s
  | .wrRsvd low data => Sys2Proof.Machine.execWrRsvd low data s

end Sys2Proof.Machine
end

