-- ==== Sys2Proof/Machine/Engine.lean ====
section
/-! DEFINITION. The engine's part of a clock cycle: the read handshake (spec/20_memory.md R62, spec/41_byte_hash.md R145)
and the engine step on the byte it yields (R147, spec/42_hash64.md R175–R181). -/

namespace Sys2Proof.Machine

/-- The engine step with consumed byte `b`, by the running operation (R145). -/
def State.engineStep (s : State) (b : Byte) : State :=
  match s.op with
  | .none => s
  | .h8 => s.stepHash8 b
  | .h64 => s.stepHash64 b

/-- A completed read: the memory's answer is taken and RDPEND <- 0 (R62). -/
def State.takeAnswer (s : State) : State := { s with rdpend := false, draws := s.answer.2 }

/-- The engine in one cycle. A step that needs a read requests it, and takes place in the cycle of its acknowledge; until
then the request stands (RDPEND = 1). A steered step needs no read and ignores `m_ack` (R62, R145, R176). -/
def State.engineCycle (s : State) (c : Cycle) : State :=
  if s.readNeeded then
    if c.ack then s.takeAnswer.engineStep s.answer.1 else { s with rdpend := true }
  else if c.steerWait then s
  else s.engineStep s.steeredByte

end Sys2Proof.Machine
end

