-- ==== Sys2Proof/Machine/ClockCycle.lean ====
section
/-! DEFINITION. One clock cycle (spec/70_reset_and_hazards.md R261, R273, spec/60_exceptions.md R237). -/

namespace Sys2Proof.Machine

/-- A cycle with `rst` = 1: every element at its reset value, a host write discarded, a host read answered 0, no engine
step (R261). The platform's writes to message memory are not the core's to void. -/
def State.resetCycle (s : State) (c : Cycle) : State :=
  let s := s.coreReset.platformStores c.stores
  if c.host.any HostItem.isRead then s.returnWord 0#32 else s

/-- The rest of a cycle after its host access: the platform's writes, then, if an operation was running when the cycle
began, the engine, reading the state the host write left (R273). An operation accepted in this cycle takes its first
step in a later one (R143, R145; log entry 8). -/
def State.afterHost (s : State) (wasBusy : Bool) (c : Cycle) : State :=
  let s := s.platformStores c.stores
  if wasBusy then s.engineCycle c else s

/-- One clock cycle with input `c`: the host access, evaluated against the state at the start of the cycle (R209, R237,
R273), then the rest. -/
def runCycle (c : Cycle) (s : State) : Host.Outcome State Fault Refusal :=
  if c.rst then .next (s.resetCycle c)
  else match c.host with
    | none => .next (s.afterHost s.busy c)
    | some item =>
      match exec (decode item) s with
      | .next s' => .next (s'.afterHost s.busy c)
      | .fault r => .fault r
      | .refused r => .refused r

/-- The item of an opcode-table word presented to the host port in the coming cycle; a number that is no word of the
table presents nothing. -/
def State.presentWord (s : State) (nbits w : Nat) : State :=
  match itemOfWord nbits w with
  | .ok item => s.presentItem item
  | .error _ => s

end Sys2Proof.Machine
end

