-- ==== Sys2Proof/Machine/Step.lean ====
section
/-! DEFINITION. The step of the machine: one clock cycle with the next input. -/

namespace Sys2Proof.Machine

/-- One step: take the next input cycle off the list and run it (log entry 3). -/
def step (s : State) : Host.Outcome State Fault Refusal := runCycle s.nextCycle s.popInput

/-- The state in which the coming step runs the instruction of an opcode-table word: its access is presented on the host
port in the coming cycle (log entries 3, 14). -/
def State.withFetchWord (s : State) (nbits w : Nat) : State := s.presentWord nbits w

end Sys2Proof.Machine
end

