-- ==== Sys2Proof/Safety.lean ====
section
/-! DEFINITION. The terms in which claims speak: the well-formed states, what a running operation has computed so far, the
engine's step in a cycle and the bytes it reads, what a host access is by its bits alone, and a prompt environment. -/

namespace Sys2Proof.Machine

/-! ### Well-formed states -/

/-- The states the spec's rules keep to. -/
structure State.Wf (s : State) : Prop where
  /-- 1 ≤ LW ≤ AW ≤ 32 (spec/00_scope.md R6, R7). -/
  legal : s.cfg.legal = true
  /-- BASE holds AW bits (spec/10_state.md R24). -/
  base_lt : s.base.toNat < 2 ^ s.cfg.aw
  /-- LEN holds LW bits (R25). -/
  len_lt : s.len.toNat < 2 ^ s.cfg.lw
  /-- IDX holds LW bits (R40). -/
  idx_lt : s.idx.toNat < 2 ^ s.cfg.lw
  /-- 0 ≤ IDX < LEN while BUSY = 1 (R40). -/
  idx_in_message : s.busy = true → s.idx.toNat < s.len.toNat
  /-- DONE and BUSY are never both 1 (R33). -/
  not_busy_and_done : s.busy = true → s.done = false
  /-- ERR_EMPTY is set together with DONE and never outlives it (R33, R34). -/
  empty_is_done : s.errEmpty = true → s.done = true
  /-- A request is outstanding only while the engine needs the byte (spec/20_memory.md R62). -/
  pending_is_needed : s.rdpend = true → s.readNeeded = true
  /-- ACCV[1..7] exist only when ENGINES = 8 (R45). -/
  one_engine : s.cfg.engines = .one → ∀ k (h : k < 8), 0 < k → s.accv[k] = 0#8
  /-- LANES exists only when ENGINES = 1, and ITER stays 0 when ENGINES = 8 (R42, R44). -/
  eight_engines : s.cfg.engines = .eight → s.lanes = 0#64 ∧ s.iter = 0#3
  /-- Memory is in its canonical form. -/
  mem_wf : s.mem.wf = true
  /-- The message space has 2^AW bytes (spec/20_memory.md R60). -/
  mem_within : s.mem.within (2 ^ s.cfg.aw) = true

/-! ### The host duty of spec/70_reset_and_hazards.md R270 -/

/-- Does a platform write of a cycle with input `c` go to address `a`? -/
def State.storesTo (s : State) (c : Cycle) (a : Nat) : Bool := c.stores.any fun w => (keepLow s.cfg.aw w.1).toNat == a

/-- No platform write of a cycle with input `c` goes to a byte of the message [BASE, BASE+LEN); writes elsewhere are free
(R270). -/
def State.LeavesMessage (s : State) (c : Cycle) : Prop :=
  ∀ i, i < s.len.toNat → s.storesTo c (s.msgAddr i).toNat = false

/-- No byte of the message is among the addresses another agent has written since the acceptance of the running operation
(R270, spec/20_memory.md R78). -/
def State.MessageIntact (s : State) : Prop := ∀ i, i < s.len.toNat → (s.msgAddr i).toNat ∉ s.disturbed

/-! ### What a running operation has computed -/

/-- What the hidden registers of a running operation hold, as long as no other agent has written a byte of the message
since its acceptance (spec/70_reset_and_hazards.md R270): the byte hashes of what has been consumed so far, in the terms
of `byteHash` (spec/41_byte_hash.md R140). -/
def State.Progress (s : State) : Prop :=
  s.MessageIntact →
    match s.op, s.cfg.engines with
    | .none, _ => True
    | .h8, _ => s.acc = byteHash (s.message.take s.idx.toNat) s.cfg.table
    | .h64, .one =>
      (s.idx ≠ 0#32 ∨ s.iter ≠ 0#3 → s.message.head? = some s.fb) ∧
      s.acc = byteHash ((perturb s.message s.iter.toNat).take s.idx.toNat) s.cfg.table ∧
      ∀ k, k < s.iter.toNat → laneOf s.lanes k = byteHash (perturb s.message k) s.cfg.table
    | .h64, .eight =>
      ∀ k (h : k < 8), s.accv[k] = byteHash ((perturb s.message k).take s.idx.toNat) s.cfg.table

/-! ### The engine in one cycle -/

/-- Does the engine complete a step in a cycle with input `c` that begins in state `s` (spec/41_byte_hash.md R145)? -/
def State.stepsIn (s : State) (c : Cycle) : Bool :=
  !c.rst && s.busy && (if s.steered then !c.steerWait else c.ack)

/-- Is the coming engine step the last of its operation (spec/41_byte_hash.md R148, R149, spec/42_hash64.md R179, R181)? -/
def State.lastStep (s : State) : Bool :=
  s.lastByte && (s.op == .h8 || s.cfg.engines == .eight || s.iter == 7#3)

/-- Does the running operation finish in a cycle with input `c` (spec/41_byte_hash.md R150)? -/
def State.finishesIn (s : State) (c : Cycle) : Bool := s.stepsIn c && s.lastStep

/-- The byte the engine consumes in a cycle with input `c`, if it completes a step: the steered value, or the memory's
answer after the cycle's platform writes (spec/42_hash64.md R175, spec/20_memory.md R78). -/
def State.consumed (s : State) (c : Cycle) : Option Byte :=
  if s.stepsIn c then
    some (if s.steered then s.steeredByte else (s.platformStores c.stores).answer.1)
  else none

/-- The state after `k` steps, if every one of them answers a next state. -/
def runs : Nat → State → Option State
  | 0, s => some s
  | k + 1, s =>
    match step s with
    | .next t => runs k t
    | .fault _ | .refused _ => none

/-- The bytes consumed in the first `k` steps, in order. -/
def consumedIn : Nat → State → List Byte
  | 0, _ => []
  | k + 1, s =>
    (s.consumed s.nextCycle).toList ++
      match step s with
      | .next t => consumedIn k t
      | .fault _ | .refused _ => []

/-- The addresses of the message reads completed in the first `k` steps, in order (spec/20_memory.md R66). -/
def readsIn : Nat → State → List Word
  | 0, _ => []
  | k + 1, s =>
    (if s.mReq s.nextCycle && s.nextCycle.ack then [s.mAddr] else []) ++
      match step s with
      | .next t => readsIn k t
      | .fault _ | .refused _ => []

/-- addr(from), …, addr(to − 1): message reads in ascending order (spec/20_memory.md R63, R66). -/
def State.addrsFrom (s : State) (first count : Nat) : List Word := (List.range' first count).map s.msgAddr

/-- The addresses of an operation's message reads, in the order of spec/20_memory.md R66. -/
def State.readOrder (s : State) (op : Op) : List Word :=
  let n := s.len.toNat
  match op, s.cfg.engines with
  | .none, _ => []
  | .h64, .one => s.addrsFrom 0 n ++ (List.replicate 7 (s.addrsFrom 1 (n - 1))).flatten
  | .h8, _ | .h64, .eight => s.addrsFrom 0 n

/-! ### Host accesses by their bits alone -/

/-- The OPC an item writes to CTRL, if it is a CTRL write (spec/30_encoding.md R90–R93). -/
def itemOpc : HostItem → Option (BitVec 3)
  | .access code data => if code.getLsbD 5 && code.extractLsb' 2 3 == 0#3 then some (data.extractLsb' 0 3) else none
  | .command word => some (word.extractLsb' 0 3)

/-- `CMD HASH8`. -/
def isHash8 (item : HostItem) : Bool := itemOpc item == some 1#3

/-- `CMD HASH64`. -/
def isHash64 (item : HostItem) : Bool := itemOpc item == some 2#3

/-- A start command: HASH8 or HASH64. -/
def isStart (item : HostItem) : Bool := isHash8 item || isHash64 item

/-- `CMD CLEAR`. -/
def isClear (item : HostItem) : Bool := itemOpc item == some 3#3

/-- A reserved command code, OPC[2] = 1 (spec/30_encoding.md R95). -/
def isReserved (item : HostItem) : Bool := (itemOpc item).any (·.getLsbD 2)

/-- `WR BASE` or `WR LEN` (spec/30_encoding.md R91). -/
def isOperandWrite : HostItem → Bool
  | .access code _ => code.getLsbD 5 && (code.extractLsb' 2 3 == 2#3 || code.extractLsb' 2 3 == 3#3)
  | .command _ => false

/-- Does the cycle's host access, if there is one, satisfy `p`? -/
def Cycle.hostIs (c : Cycle) (p : HostItem → Bool) : Bool := c.host.any p

/-- Is a start command accepted in a cycle with input `c` that begins in `s` (spec/41_byte_hash.md R143)? -/
def State.acceptsIn (s : State) (c : Cycle) : Bool := !c.rst && !s.busy && c.hostIs isStart

/-! ### Operations in any environment -/

/-- A run of `k + 1` cycles from `s` to `t` without reset, the first of which accepts a start command that satisfies `p`,
with LEN ≥ 1, and in which the operation is still running after each cycle but perhaps the last. The memory may take any
time to answer, the host may access and other agents may write anything (spec/20_memory.md R62,
spec/70_reset_and_hazards.md R275). -/
structure OperationRun (p : HostItem → Bool) (k : Nat) (s t : State) : Prop where
  /-- The first cycle accepts a start command. -/
  accepted : s.acceptsIn s.nextCycle = true
  /-- It is the command meant. -/
  command : s.nextCycle.hostIs p = true
  /-- LEN ≥ 1. -/
  nonempty : s.len ≠ 0#32
  /-- No cycle of the run is a reset cycle. -/
  no_reset : ∀ c ∈ s.inputs.take (k + 1), c.rst = false
  /-- The operation runs until the last cycle of the run. -/
  busy_until : ∀ j u, 1 ≤ j → j ≤ k → runs j s = some u → u.busy = true
  /-- The run ends in `t`. -/
  ends_in : runs (k + 1) s = some t

/-- The host duty of spec/70_reset_and_hazards.md R270 holds in `k + 1` cycles from `s`, from the cycle of acceptance on:
no other agent writes a byte of the message. -/
def State.KeepsDuty (s : State) (k : Nat) : Prop := ∀ c ∈ s.inputs.take (k + 1), s.LeavesMessage c

/-! ### A prompt environment -/

/-- A cycle in which nothing is reset, no other agent writes the message memory (more than the duty of spec/70 R270 asks),
the memory answers at once and a steered step is taken at once, as in the reference timing of R274, which is not
normative (log entries 9, 10). The host may access anything. -/
def Cycle.prompt (c : Cycle) : Bool := !c.rst && c.stores.isEmpty && c.ack && !c.steerWait

/-- The next `n` input cycles are there and prompt. -/
def State.promptFor (s : State) (n : Nat) : Bool :=
  decide (n ≤ s.inputs.length) && (s.inputs.take n).all Cycle.prompt

/-- The operation's number of engine steps (spec/42_hash64.md R185): n for HASH8, 8n or n for HASH64. -/
def stepCount (op : Op) (e : Engines) (n : Nat) : Nat :=
  match op, e with
  | .none, _ => 0
  | .h8, _ => n
  | .h64, .one => 8 * n
  | .h64, .eight => n

/-! ### What the host can see -/

/-- The state the host port shows (spec/10_state.md R48): two states that agree here differ in hidden registers only. -/
structure HostView where
  base : Word
  len : Word
  hash8 : Byte
  hash64 : Dword
  busy : Bool
  done : Bool
  errEmpty : Bool
  errCmd : Bool
  errBusy : Bool
  par : Bool
  deriving DecidableEq, Repr

/-- The host's view of a state. -/
def State.view (s : State) : HostView where
  base := s.base
  len := s.len
  hash8 := s.hash8
  hash64 := s.hash64
  busy := s.busy
  done := s.done
  errEmpty := s.errEmpty
  errCmd := s.errCmd
  errBusy := s.errBusy
  par := s.par

end Sys2Proof.Machine
end

