-- ==== Sys2Proof/Certificates/Slice0/Obligations.lean ====
section
/-! DEFINITION. The statements for the provers. Every statement is about the machine; a premise `Wf` or `Progress` is an
invariant that `WellFormedStatesAreKept` and `ProgressIsKept` state of every step. -/

open Sys2Proof Sys2Proof.Machine

/-! ### Encoding -/

/-- Decoding the encoding of a well-formed instruction gives the instruction back, every operand at every value
(spec/30_encoding.md R90–R94). -/
def Obligations.DecodeInvertsEncode : Prop :=
  ∀ i : Instr, i.wellFormed = true → decode (encode i) = i

/-- Every host item decodes to a well-formed instruction whose encoding is the item, a read's absent data word apart
(spec/30_encoding.md R90, R91, R93). -/
def Obligations.EncodeInvertsDecode : Prop :=
  ∀ item : HostItem, (decode item).wellFormed = true ∧ encode (decode item) = item.canonical

/-- Words written out from spec/30_encoding.md R90–R93 decode to the instructions they stand for. -/
def Obligations.ListedWordsDecodeToTheirInstructions : Prop :=
  decode (.command 0xFFFFFFF8#32) = .cmdNop 0x1FFFFFFF#29 ∧
  decode (.command 0x00000001#32) = .cmdHash8 0#29 ∧
  decode (.command 0x00000002#32) = .cmdHash64 0#29 ∧
  decode (.command 0x00000003#32) = .cmdClear 0#29 ∧
  decode (.command 0x80000004#32) = .cmdReserved 0b100#3 0x10000000#29 ∧
  decode (.access 0b000101#6 0#32) = .rdStatus 0b01#2 ∧
  decode (.access 0b010100#6 0#32) = .rdHash64Lo 0b00#2 ∧
  decode (.access 0b101000#6 0x00000100#32) = .wrBase 0b00#2 0x00000100#32 ∧
  decode (.access 0b111111#6 0x00000007#32) = .wrRsvd 0b11#2 0x00000007#32

/-- Every 6-bit access code selects exactly one row of the opcode table, and it decodes to that row's instruction
(spec/30_encoding.md R91). -/
def Obligations.AccessCodeSelectsExactlyOneRow : Prop :=
  ∀ (code : BitVec 6) (data : Word),
    (accessRows.filter (·.selects code)).map (·.mnemonic) = [(decode (.access code data)).mnemonic]

/-- A command word decodes to the row whose pattern it has under the row's mask (spec/30_encoding.md R93). -/
def Obligations.CommandWordSelectsItsRow : Prop :=
  ∀ (word : Word) (r : OpRow 32), r ∈ commandRows →
    ((decode (.command word)).mnemonic = r.mnemonic ↔ word &&& r.mask = r.pattern)

/-- Bits [31:3] of a command word have no effect (spec/30_encoding.md R94). -/
def Obligations.IgnoredCommandBitsChangeNothing : Prop :=
  ∀ (w w' : Word) (low : BitVec 2) (s : State), w.extractLsb' 0 3 = w'.extractLsb' 0 3 →
    exec (decode (.command w)) s = exec (decode (.command w')) s ∧
    exec (.wrCtrl low w) s = exec (.wrCtrl low w') s

/-- haddr[1:0] is ignored, and every offset is decoded: accesses with the same WE and OFF do the same, and each answers
(spec/20_memory.md R69). -/
def Obligations.IgnoredAddressBitsChangeNothing : Prop :=
  ∀ (code code' : BitVec 6) (data : Word) (s : State), code.extractLsb' 2 4 = code'.extractLsb' 2 4 →
    exec (decode (.access code data)) s = exec (decode (.access code' data)) s ∧
    ∃ t, exec (decode (.access code data)) s = .next t

/-! ### Host reads -/

/-- A read of STATUS returns the flags in their bits, 0 in every other bit, and changes nothing else
(spec/43_control.md R212, spec/10_state.md R31). -/
def Obligations.ReadStatusReturnsTheFlags : Prop :=
  ∀ (low : BitVec 2) (s : State), ∃ w : Word,
    exec (.rdStatus low) s = .next { s with hrdata := w } ∧
    w.getLsbD 0 = decide (s.op ≠ .none) ∧ w.getLsbD 1 = s.done ∧ w.getLsbD 2 = s.errEmpty ∧
    w.getLsbD 3 = s.errCmd ∧ w.getLsbD 4 = s.errBusy ∧ w.getLsbD 8 = decide (s.cfg.engines = .eight) ∧
    ∀ n, 5 ≤ n → n ≠ 8 → w.getLsbD n = false

/-- Reads of CTRL and of offset 0x1C return 0 and change nothing else (spec/43_control.md R211, R218). -/
def Obligations.ReadCtrlAndReservedReturnZero : Prop :=
  ∀ (low : BitVec 2) (s : State),
    exec (.rdCtrl low) s = .next { s with hrdata := 0x00000000#32 } ∧
    exec (.rdRsvd low) s = .next { s with hrdata := 0x00000000#32 }

/-- Reads of BASE and LEN return the registers zero-extended to 32 bits and change nothing else
(spec/43_control.md R213, R214). -/
def Obligations.ReadBaseAndLenReturnTheOperands : Prop :=
  ∀ (low : BitVec 2) (s : State),
    (∃ w : Word, exec (.rdBase low) s = .next { s with hrdata := w } ∧ w.toNat = s.base.toNat ∧
      (s.Wf → ∀ n, s.cfg.aw ≤ n → w.getLsbD n = false)) ∧
    (∃ w : Word, exec (.rdLen low) s = .next { s with hrdata := w } ∧ w.toNat = s.len.toNat ∧
      (s.Wf → ∀ n, s.cfg.lw ≤ n → w.getLsbD n = false))

/-- A read of HASH8 returns it zero-extended and changes nothing else (spec/43_control.md R215). -/
def Obligations.ReadHash8ReturnsTheResult : Prop :=
  ∀ (low : BitVec 2) (s : State), ∃ w : Word,
    exec (.rdHash8 low) s = .next { s with hrdata := w } ∧ w.toNat = s.hash8.toNat

/-- HASH64_LO returns lanes 0–3 and HASH64_HI lanes 4–7, lane j in bits [8j+7:8j] of its word; together they are HASH64
(spec/43_control.md R216, R217). -/
def Obligations.ReadHash64WordsReturnTheLanes : Prop :=
  ∀ (low : BitVec 2) (s : State), ∃ lo hi : Word,
    exec (.rdHash64Lo low) s = .next { s with hrdata := lo } ∧
    exec (.rdHash64Hi low) s = .next { s with hrdata := hi } ∧
    hi ++ lo = s.hash64 ∧
    ∀ j, j < 4 → lo.extractLsb' (8 * j) 8 = laneOf s.hash64 j ∧ hi.extractLsb' (8 * j) 8 = laneOf s.hash64 (j + 4)

/-- A host read changes no state of the core, at any time, and returns the register as it stands at the start of the
cycle, whatever the engine does in that cycle (spec/43_control.md R209). -/
def Obligations.HostReadsSeeTheStartOfTheCycle : Prop :=
  ∀ (s : State) (code : BitVec 6) (data : Word), code.getLsbD 5 = false →
    ∃ w, exec (decode (.access code data)) s = .next { s with hrdata := w } ∧
      (s.nextCycle.rst = false → s.nextCycle.host = some (.access code data) →
        ∃ t, step s = .next t ∧ t.hrdata = w)

/-! ### Host writes -/

/-- WR BASE and WR LEN while BUSY = 0 keep the low AW and LW bits of the data and change nothing else
(spec/43_control.md R206). -/
def Obligations.WriteBaseAndLenWhileIdle : Prop :=
  ∀ (low : BitVec 2) (data : Word) (s : State), s.op = .none →
    (∃ b : Word, exec (.wrBase low data) s = .next { s with base := b } ∧ b.toNat = data.toNat % 2 ^ s.cfg.aw) ∧
    (∃ n : Word, exec (.wrLen low data) s = .next { s with len := n } ∧ n.toNat = data.toNat % 2 ^ s.cfg.lw)

/-- WR BASE and WR LEN while BUSY = 1 are discarded and raise ERR_BUSY (spec/43_control.md R207). -/
def Obligations.WriteBaseAndLenWhileBusy : Prop :=
  ∀ (low : BitVec 2) (data : Word) (s : State), s.op ≠ .none →
    exec (.wrBase low data) s = .next { s with errBusy := true } ∧
    exec (.wrLen low data) s = .next { s with errBusy := true }

/-- Writes to STATUS, HASH8, HASH64_LO, HASH64_HI and offset 0x1C change nothing at all (spec/43_control.md R208). -/
def Obligations.ReadOnlyWritesAreDiscarded : Prop :=
  ∀ (low : BitVec 2) (data : Word) (s : State),
    exec (.wrStatus low data) s = .next s ∧ exec (.wrHash8 low data) s = .next s ∧
    exec (.wrHash64Lo low data) s = .next s ∧ exec (.wrHash64Hi low data) s = .next s ∧
    exec (.wrRsvd low data) s = .next s

/-- A write to CTRL runs the command its data word holds, and answers (spec/43_control.md R205). -/
def Obligations.CtrlWriteRunsItsCommand : Prop :=
  ∀ (low : BitVec 2) (data : Word) (ign : BitVec 29) (s : State),
    (data.extractLsb' 0 3 = 0#3 → exec (.wrCtrl low data) s = exec (.cmdNop ign) s) ∧
    (data.extractLsb' 0 3 = 1#3 → exec (.wrCtrl low data) s = exec (.cmdHash8 ign) s) ∧
    (data.extractLsb' 0 3 = 2#3 → exec (.wrCtrl low data) s = exec (.cmdHash64 ign) s) ∧
    (data.extractLsb' 0 3 = 3#3 → exec (.wrCtrl low data) s = exec (.cmdClear ign) s) ∧
    (data.getLsbD 2 = true → exec (.wrCtrl low data) s = exec (.cmdReserved (data.extractLsb' 0 3) ign) s) ∧
    ∃ t, exec (.wrCtrl low data) s = .next t

/-! ### Commands -/

/-- NOP changes nothing, busy or not; 0x00000000 and 0xFFFFFFF8 are both NOP (spec/43_control.md R200). -/
def Obligations.NopChangesNothing : Prop :=
  (∀ (ign : BitVec 29) (s : State), exec (.cmdNop ign) s = .next s) ∧
  ∀ (low : BitVec 2) (s : State),
    exec (.wrCtrl low 0x00000000#32) s = .next s ∧ exec (.wrCtrl low 0xFFFFFFF8#32) s = .next s

/-- CLEAR clears DONE and the three error flags and changes nothing else, busy or not; and no step but a CLEAR or a reset
clears ERR_CMD or ERR_BUSY (spec/43_control.md R201). -/
def Obligations.ClearClearsTheFlags : Prop :=
  (∀ (ign : BitVec 29) (s : State),
    exec (.cmdClear ign) s = .next { s with done := false, errEmpty := false, errCmd := false, errBusy := false }) ∧
  ∀ s t : State, step s = .next t →
    (s.errCmd = true ∧ t.errCmd = false) ∨ (s.errBusy = true ∧ t.errBusy = false) →
    s.nextCycle.rst = true ∨ s.nextCycle.hostIs isClear = true

/-- A reserved command code sets ERR_CMD and changes nothing else, busy or not (spec/43_control.md R202). -/
def Obligations.ReservedCommandRaisesErrCmdOnly : Prop :=
  (∀ (code : BitVec 3) (ign : BitVec 29) (s : State),
    exec (.cmdReserved code ign) s = .next { s with errCmd := true }) ∧
  ∀ (low : BitVec 2) (data : Word) (s : State), data.getLsbD 2 = true →
    exec (.wrCtrl low data) s = .next { s with errCmd := true }

/-- A start command while BUSY = 1 sets ERR_BUSY and changes nothing else, whatever LEN holds (spec/43_control.md R203). -/
def Obligations.StartWhileBusyIsRefused : Prop :=
  ∀ (ign : BitVec 29) (s : State), s.op ≠ .none →
    exec (.cmdHash8 ign) s = .next { s with errBusy := true } ∧
    exec (.cmdHash64 ign) s = .next { s with errBusy := true }

/-- HASH8: refused while an operation runs; with LEN = 0 it completes at once with HASH8 = 0; else the operation starts with
IDX and ACC 0. Nothing else changes; the model's own record `disturbed` is left open when an operation starts
(spec/41_byte_hash.md R143, R144). -/
def Obligations.Hash8CommandEffect : Prop :=
  ∀ (ign : BitVec 29) (s : State), ∃ d : List Nat,
    exec (.cmdHash8 ign) s =
      .next (if s.op ≠ .none then { s with errBusy := true }
        else if s.len = 0#32 then { s with done := true, errEmpty := false, hash8 := 0#8 }
        else
          { s with done := false, errEmpty := false, op := .h8, idx := 0#32, accv := s.accv.set 0 0#8, disturbed := d })

/-- HASH64: refused while an operation runs; with LEN = 0 it raises ERR_EMPTY and DONE and leaves HASH64; else the operation
starts with ITER, IDX and the accumulators 0, and LANES 0 where it exists. Nothing else changes; the model's own record
`disturbed` is left open when an operation starts (spec/42_hash64.md R173, R174). -/
def Obligations.Hash64CommandEffect : Prop :=
  ∀ (ign : BitVec 29) (s : State), ∃ d : List Nat,
    exec (.cmdHash64 ign) s =
      .next (if s.op ≠ .none then { s with errBusy := true }
        else if s.len = 0#32 then { s with done := true, errEmpty := true }
        else
          match s.cfg.engines with
          | .one =>
            { s with
              done := false, errEmpty := false, op := .h64, iter := 0#3, idx := 0#32, accv := s.accv.set 0 0#8
              lanes := 0#64, disturbed := d }
          | .eight =>
            { s with
              done := false, errEmpty := false, op := .h64, iter := 0#3, idx := 0#32
              accv := Vector.replicate 8 0#8, disturbed := d })

/-! ### Errors and flags -/

/-- `raise E` sets the bit of E's code in STATUS, a flag that is 1 stays 1, and nothing but the flags changes
(spec/60_exceptions.md R231, R232). -/
def Obligations.RaiseSetsItsStatusBit : Prop :=
  ∀ (s : State) (e : ErrorFlag),
    (s.raise e).statusWord = s.statusWord ||| (1#32 <<< e.code) ∧
    { s.raise e with errEmpty := s.errEmpty, errCmd := s.errCmd, errBusy := s.errBusy } = s

/-- One host access raises at most one error flag; a reserved code raises ERR_CMD alone and a HASH64 with LEN = 0 raises
ERR_BUSY alone while BUSY = 1 (spec/60_exceptions.md R237a). -/
def Obligations.OneAccessRaisesAtMostOneFlag : Prop :=
  ∀ (item : HostItem) (s t : State), exec (decode item) s = .next t →
    (∀ e e', s.flag e = false → t.flag e = true → s.flag e' = false → t.flag e' = true → e = e') ∧
    (s.op ≠ .none → isReserved item = true → t = { s with errCmd := true }) ∧
    (s.op ≠ .none → isHash64 item = true → t = { s with errBusy := true })

/-- BUSY is 1 exactly while OP ≠ NONE; an accepted start with LEN ≥ 1 sets it, `finish` and reset clear it, and nothing
else changes it (spec/10_state.md R32). -/
def Obligations.BusyFlagLaw : Prop :=
  ∀ s t : State, step s = .next t →
    (t.statusWord.getLsbD 0 = true ↔ t.op ≠ .none) ∧
    t.statusWord.getLsbD 0 = (!s.nextCycle.rst &&
      (if s.statusWord.getLsbD 0 then !s.finishesIn s.nextCycle else s.nextCycle.hostIs isStart && s.len != 0#32))

/-- When DONE is set and when it is cleared, and that it is never 1 together with BUSY (spec/10_state.md R33). -/
def Obligations.DoneFlagLaw : Prop :=
  ∀ s t : State, step s = .next t →
    t.done = (!s.nextCycle.rst &&
      (s.finishesIn s.nextCycle ||
        (!s.nextCycle.hostIs isClear && (if s.acceptsIn s.nextCycle then s.len == 0#32 else s.done)))) ∧
    (s.Wf → t.busy = true → t.done = false)

/-- When ERR_EMPTY is set and when it is cleared; its code is 2 (spec/10_state.md R34). -/
def Obligations.ErrEmptyFlagLaw : Prop :=
  ErrorFlag.empty.code = 2 ∧
  ∀ s t : State, step s = .next t →
    t.errEmpty = (!s.nextCycle.rst && !s.nextCycle.hostIs isClear &&
      (if s.acceptsIn s.nextCycle then s.nextCycle.hostIs isHash64 && s.len == 0#32 else s.errEmpty))

/-- When ERR_CMD is set and when it is cleared; its code is 3 (spec/10_state.md R35). -/
def Obligations.ErrCmdFlagLaw : Prop :=
  ErrorFlag.cmd.code = 3 ∧
  ∀ s t : State, step s = .next t →
    t.errCmd = (!s.nextCycle.rst && !s.nextCycle.hostIs isClear && (s.errCmd || s.nextCycle.hostIs isReserved))

/-- When ERR_BUSY is set and when it is cleared; its code is 4 (spec/10_state.md R36). -/
def Obligations.ErrBusyFlagLaw : Prop :=
  ErrorFlag.busy.code = 4 ∧
  ∀ s t : State, step s = .next t →
    t.errBusy = (!s.nextCycle.rst && !s.nextCycle.hostIs isClear &&
      (s.errBusy || (s.busy && (s.nextCycle.hostIs isStart || s.nextCycle.hostIs isOperandWrite))))

/-! ### The clock cycle -/

/-- A step runs the instruction its host access decodes to, on the state at the start of the cycle, and then the rest of
the cycle (spec/30_encoding.md R90, spec/70_reset_and_hazards.md R273). The second clause, that a word of the opcode table
presented with `withFetchWord` is what the coming step runs, in a cycle without reset, is the model's choice (log entries
3, 14): no rule of the spec says how a table word is presented. -/
def Obligations.StepRunsTheDecodedInstruction : Prop :=
  (∀ (s t : State) (item : HostItem), s.nextCycle.rst = false → s.nextCycle.host = some item →
    exec (decode item) s.popInput = .next t → step s = .next (t.afterHost s.busy s.nextCycle)) ∧
  ∀ (s : State) (nbits w : Nat) (i : Instr), decodeTableWord nbits w = some i →
    (s.withFetchWord nbits w).nextCycle.rst = false ∧
    (s.withFetchWord nbits w).nextCycle.host.map decode = some i ∧
    (s.withFetchWord nbits w).popInput = s.popInput

/-- The state right after reset, for every configuration: the values of the table of spec/10_state.md R49. That memory
lists nothing and that no input is pending is the model's choice (log entries 3, 5). -/
def Obligations.ResetStateHoldsTheSpecValues : Prop :=
  ∀ c : Config,
    let s := State.resetWith c
    s.cfg = c ∧ s.base = 0#32 ∧ s.len = 0#32 ∧ s.hash8 = 0#8 ∧ s.hash64 = 0#64 ∧
    s.statusWord = (if c.engines = .eight then 0x00000100#32 else 0x00000000#32) ∧
    s.op = .none ∧ s.idx = 0#32 ∧ s.acc = 0#8 ∧ s.iter = 0#3 ∧ s.fb = 0#8 ∧ s.lanes = 0#64 ∧
    (∀ k (h : k < 8), s.accv[k] = 0#8) ∧ s.rdpend = false ∧ s.mem = [] ∧ s.inputs = [] ∧
    State.reset = State.resetWith Config.default

/-- A cycle with `rst` = 1 sets every element of the core to its reset value, discards a host write, answers 0 to a host
read, takes no engine step and drives m_req = 0; the message memory changes by the platform's own writes only. The model's
own fields are left open (spec/70_reset_and_hazards.md R261). -/
def Obligations.ResetCycleResetsTheCore : Prop :=
  ∀ s : State, s.nextCycle.rst = true →
    s.mReq s.nextCycle = false ∧
    ∃ t, step s = .next t ∧
      { t with mem := [], hrdata := 0#32, disturbed := [], draws := 0, inputs := [] } = State.resetWith s.cfg ∧
      (s.nextCycle.hostIs HostItem.isRead = true → t.hrdata = 0x00000000#32) ∧
      (s.nextCycle.stores = [] → t.mem = s.mem)

/-- No instruction and no cycle stops the machine: there is no trap (spec/60_exceptions.md R230). -/
def Obligations.EveryStepAnswersNext : Prop :=
  (∀ (i : Instr) (s : State), ∃ t, exec i s = .next t) ∧ ∀ s : State, ∃ t, step s = .next t

/-- The core never writes the message memory: a byte that no platform write of the cycle addresses reads as before
(spec/20_memory.md R64, spec/42_hash64.md R183). -/
def Obligations.CoreNeverWritesTheMessageMemory : Prop :=
  ∀ s t : State, s.mem.wf = true → step s = .next t → ∀ a : Nat,
    (∀ w ∈ s.nextCycle.stores, (keepLow s.cfg.aw w.1).toNat ≠ a) → t.mem.read a = s.mem.read a

/-- The LUT and every other parameter are constants: no host access, command or reset changes them
(spec/40_lut.md R125, spec/70_reset_and_hazards.md R263). -/
def Obligations.ConfigurationNeverChanges : Prop :=
  ∀ s t : State, step s = .next t → t.cfg = s.cfg ∧ ∀ i, lut t.cfg.table i = lut s.cfg.table i

/-- HASH8 changes only when a HASH8 completes, HASH64 only when a HASH64 completes; partial results are never seen
(spec/10_state.md R26, R27, spec/43_control.md R210). -/
def Obligations.ResultsChangeOnlyAtCompletion : Prop :=
  ∀ s t : State, step s = .next t → s.nextCycle.rst = false →
    (t.hash8 ≠ s.hash8 → t.op = .none ∧ t.done = true ∧
      (s.op = .h8 ∨ (s.op = .none ∧ s.nextCycle.hostIs isHash8 = true ∧ s.len = 0#32))) ∧
    (t.hash64 ≠ s.hash64 → t.op = .none ∧ t.done = true ∧ s.op = .h64)

/-- BASE, LEN and, where no other agent writes, the message are fixed while BUSY = 1
(spec/30_encoding.md R96, spec/43_control.md R207). -/
def Obligations.MessageIsFixedWhileBusy : Prop :=
  ∀ s t : State, s.op ≠ .none → s.nextCycle.rst = false → step s = .next t →
    t.base = s.base ∧ t.len = s.len ∧ (s.nextCycle.stores = [] → t.message = s.message)

/-! ### The engine -/

/-- A requested read that is not answered is held: RDPEND = 1, the request and its address stand, no hidden register of the
operation moves; an answered one clears RDPEND; and an acknowledge with no request is ignored (spec/20_memory.md R62,
spec/70_reset_and_hazards.md R275). -/
def Obligations.ReadRequestIsHeldUntilAnswered : Prop :=
  ∀ s t : State, step s = .next t →
    (s.mReq s.nextCycle = true → s.nextCycle.ack = false →
      t.rdpend = true ∧ t.readNeeded = true ∧ t.mAddr = s.mAddr ∧
      t.op = s.op ∧ t.idx = s.idx ∧ t.iter = s.iter ∧ t.fb = s.fb ∧ t.lanes = s.lanes ∧ t.accv = s.accv) ∧
    (s.mReq s.nextCycle = true → s.nextCycle.ack = true → t.rdpend = false) ∧
    (s.mReq s.nextCycle = false → ∀ b, runCycle { s.nextCycle with ack := b } s.popInput = .next t)

/-- An engine step that is not the last of its run folds one byte into each running accumulator, advances IDX by 1 and
touches no result (spec/41_byte_hash.md R147, spec/42_hash64.md R175, R177, R180). -/
def Obligations.EngineStepFoldsOneByte : Prop :=
  ∀ (s t : State) (b : Byte), s.Wf → step s = .next t → s.consumed s.nextCycle = some b → s.lastByte = false →
    t.op = s.op ∧ t.iter = s.iter ∧ t.lanes = s.lanes ∧ t.hash8 = s.hash8 ∧ t.hash64 = s.hash64 ∧
    t.idx.toNat = s.idx.toNat + 1 ∧
    t.fb = (if s.op = .h64 ∧ s.idx = 0#32 ∧ s.iter = 0#3 then b else s.fb) ∧
    (s.op = .h8 ∨ s.cfg.engines = .one →
      t.acc = lut s.cfg.table (s.acc ^^^ b) ∧ ∀ k (h : k < 8), 0 < k → t.accv[k] = s.accv[k]) ∧
    (s.op = .h64 → s.cfg.engines = .eight → ∀ k (h : k < 8),
      t.accv[k] = lut s.cfg.table (s.accv[k] ^^^ (if s.idx = 0#32 then b + BitVec.ofNat 8 k else b)))

/-- The end of an iteration 0…6 of the sequential HASH64 puts the accumulator into its lane, leaves the other lanes, and
starts the next iteration with IDX and ACC 0 (spec/42_hash64.md R178). -/
def Obligations.IterationEndStoresItsLane : Prop :=
  ∀ (s t : State) (b : Byte), step s = .next t → s.consumed s.nextCycle = some b →
    s.op = .h64 → s.cfg.engines = .one → s.lastByte = true → s.iter ≠ 7#3 →
    (∀ j, j < 8 → laneOf t.lanes j =
      if j = s.iter.toNat then lut s.cfg.table (s.acc ^^^ b) else laneOf s.lanes j) ∧
    t.iter.toNat = s.iter.toNat + 1 ∧ t.idx = 0#32 ∧ t.acc = 0#8 ∧ t.op = .h64 ∧
    t.hash8 = s.hash8 ∧ t.hash64 = s.hash64

/-- In iterations 1…7 of the sequential HASH64 the byte at index 0 is (FB + k) mod 256; it needs no read
(spec/42_hash64.md R176). -/
def Obligations.FirstByteIsSteeredOnTheDatapath : Prop :=
  ∀ (s : State) (c : Cycle), s.op = .h64 → s.cfg.engines = .one → s.idx = 0#32 → s.iter ≠ 0#3 →
    s.mReq c = false ∧
    (c.rst = false → c.steerWait = false → ∃ b, s.consumed c = some b ∧ b.toNat = (s.fb.toNat + s.iter.toNat) % 256)

/-- A platform write in a cycle that begins with an operation running, or that accepts one, puts its address into
`disturbed`; nothing else enters, and what is in it stays until the operation ends. A read of an address in it, or written
in the very cycle of the read, is a draw; any other read is the memory's byte (spec/20_memory.md R78). That the draw is
`Config.drawnByte` of the counter `draws`, which it advances by 1, and that `disturbed` is a list of addresses, is the
model's choice (log entry 7); the statement holds whatever the drawn bytes are. -/
def Obligations.ReadOfADisturbedByteIsADraw : Prop :=
  ∀ s t : State, step s = .next t → s.nextCycle.rst = false →
    (s.op ≠ .none → ∀ a, a ∈ t.disturbed ↔ a ∈ s.disturbed ∨ s.storesTo s.nextCycle a = true) ∧
    (s.acceptsIn s.nextCycle = true → s.len ≠ 0#32 → ∀ a, a ∈ t.disturbed ↔ s.storesTo s.nextCycle a = true) ∧
    (s.mReq s.nextCycle = true → s.nextCycle.ack = true →
      if s.mAddr.toNat ∈ s.disturbed ∨ s.storesTo s.nextCycle s.mAddr.toNat = true then
        s.consumed s.nextCycle = some (Config.drawnByte s.draws) ∧ t.draws = s.draws + 1
      else s.consumed s.nextCycle = some (s.mem.read s.mAddr.toNat) ∧ t.draws = s.draws)

/-- A host access in the cycle of `finish` sees BUSY = 1: a start, WR BASE or WR LEN is refused, a read of STATUS returns
BUSY = 1, and a CLEAR loses to `finish`, which sets DONE (spec/60_exceptions.md R237b). -/
def Obligations.HostAccessInTheFinishCycle : Prop :=
  ∀ s t : State, step s = .next t → s.finishesIn s.nextCycle = true →
    t.busy = false ∧ t.done = true ∧
    (s.nextCycle.hostIs isStart = true → t.errBusy = true) ∧
    (s.nextCycle.hostIs isOperandWrite = true → t.errBusy = true ∧ t.base = s.base ∧ t.len = s.len) ∧
    (∀ low, s.nextCycle.host = some (readAt 1#3 low) → t.hrdata.getLsbD 0 = true) ∧
    (s.nextCycle.hostIs isClear = true → t.errBusy = false ∧ t.errCmd = false ∧ t.errEmpty = false)

/-! ### Invariants -/

/-- Every step keeps the well-formed states. -/
def Obligations.WellFormedStatesAreKept : Prop :=
  ∀ s t : State, s.Wf → step s = .next t → t.Wf

/-- The reset state of every legal configuration is well-formed, and nothing is in progress in it. -/
def Obligations.ResetIsWellFormed : Prop :=
  (∀ c : Config, c.legal = true → (State.resetWith c).Wf ∧ (State.resetWith c).Progress) ∧
  State.reset.Wf ∧ State.reset.Progress

/-- Every step keeps the hidden registers of a running operation equal to the byte hashes of what it has consumed, as long
as no byte of the message has been written by another agent since acceptance; writes elsewhere do not matter
(spec/70_reset_and_hazards.md R270). -/
def Obligations.ProgressIsKept : Prop :=
  ∀ s t : State, s.Wf → s.Progress → step s = .next t → t.Progress

/-! ### Results -/

/-- The step that finishes a HASH8 leaves HASH8 = byteHash of the message, DONE = 1 and BUSY = 0, and HASH64, BASE and LEN
as they were, if no other agent wrote a byte of [BASE, BASE+LEN) since acceptance, the finishing cycle included; writes
elsewhere are free (spec/41_byte_hash.md R149, R150, R151, R154, spec/70_reset_and_hazards.md R270). -/
def Obligations.Hash8ResultAtFinish : Prop :=
  ∀ s t : State, s.Wf → s.Progress → s.op = .h8 → s.MessageIntact → s.LeavesMessage s.nextCycle →
    s.finishesIn s.nextCycle = true → step s = .next t →
    t.hash8 = byteHash s.message s.cfg.table ∧ t.op = .none ∧ t.done = true ∧
    t.hash64 = s.hash64 ∧ t.base = s.base ∧ t.len = s.len ∧ t.message = s.message

/-- The step that finishes a HASH64 leaves HASH64 = hash64 of the message, in either organisation, and HASH8, BASE and LEN
as they were, if no other agent wrote a byte of [BASE, BASE+LEN) since acceptance, the finishing cycle included; writes
elsewhere are free. And whatever other agents write and however long the memory takes, each lane of HASH64 ends as the
byte hash of the bytes that its lane consumed: with ENGINES = 1 the LEN bytes of its own iteration, the first of which is
the byte read at index 0 of iteration 0 plus the lane's number, with ENGINES = 8 the LEN bytes read once for all lanes,
the first plus the lane's number (spec/42_hash64.md R179, R181, R186, R187, spec/70_reset_and_hazards.md R270). -/
def Obligations.Hash64ResultAtFinish : Prop :=
  (∀ s t : State, s.Wf → s.Progress → s.op = .h64 → s.MessageIntact → s.LeavesMessage s.nextCycle →
    s.finishesIn s.nextCycle = true → step s = .next t →
    t.hash64 = hash64 s.message s.cfg.table ∧ t.op = .none ∧ t.done = true ∧
    t.hash8 = s.hash8 ∧ t.base = s.base ∧ t.len = s.len ∧ t.message = s.message) ∧
  ∀ (k : Nat) (s t : State), s.Wf → OperationRun isHash64 k s t → t.busy = false →
    let n := s.len.toNat
    let bytes := consumedIn (k + 1) s
    match s.cfg.engines with
    | .one =>
      bytes.length = 8 * n ∧ ∀ j, j < 8 →
        laneOf t.hash64 j = byteHash ((bytes.drop (j * n)).take n) s.cfg.table ∧
        (bytes.drop (j * n)).head? = bytes.head?.map (· + BitVec.ofNat 8 j)
    | .eight =>
      bytes.length = n ∧ ∀ j, j < 8 → laneOf t.hash64 j = byteHash (perturb bytes j) s.cfg.table

/-- An accepted HASH8 with LEN = n ≥ 1 in a prompt environment takes n engine steps: n cycles after the cycle of its
acceptance the core is idle, DONE is 1 and HASH8 is byteHash of the message, whatever the host accesses meanwhile
(spec/41_byte_hash.md R148, R151, spec/70_reset_and_hazards.md R275). The rules fix the n steps; that they are n cycles is
the reference timing of R274, given for orientation only, as the model reads it (log entries 8, 9, 10). -/
def Obligations.Hash8RunsToItsResult : Prop :=
  ∀ s : State, s.Wf → s.acceptsIn s.nextCycle = true → s.nextCycle.hostIs isHash8 = true → s.len ≠ 0#32 →
    s.nextCycle.stores = [] → s.popInput.promptFor (stepCount .h8 s.cfg.engines s.len.toNat) = true →
    ∃ t, runs (stepCount .h8 s.cfg.engines s.len.toNat + 1) s = some t ∧
      t.busy = false ∧ t.done = true ∧ t.hash8 = byteHash s.message s.cfg.table ∧ t.hash64 = s.hash64 ∧ t.mem = s.mem

/-- An accepted HASH64 with LEN = n ≥ 1 in a prompt environment takes 8n engine steps with ENGINES = 1 and n with
ENGINES = 8; after so many cycles HASH64 is hash64 of the message, whatever the host accesses meanwhile
(spec/42_hash64.md R185, R186, spec/70_reset_and_hazards.md R275). The rules fix the steps; that they are as many cycles
is the reference timing of R274, given for orientation only, as the model reads it (log entries 8, 9, 10). -/
def Obligations.Hash64RunsToItsResult : Prop :=
  ∀ s : State, s.Wf → s.acceptsIn s.nextCycle = true → s.nextCycle.hostIs isHash64 = true → s.len ≠ 0#32 →
    s.nextCycle.stores = [] → s.popInput.promptFor (stepCount .h64 s.cfg.engines s.len.toNat) = true →
    ∃ t, runs (stepCount .h64 s.cfg.engines s.len.toNat + 1) s = some t ∧
      t.busy = false ∧ t.done = true ∧ t.hash64 = hash64 s.message s.cfg.table ∧ t.hash8 = s.hash8 ∧ t.mem = s.mem

/-- The sequential and the parallel organisation give the same HASH64 for the same message and table, hash64 of the
message, in every environment that keeps the host duty of spec/70_reset_and_hazards.md R270 and answers every read: any
memory latency, any delay of a steered step, any write outside the message, any host access (spec/00_scope.md R9,
spec/42_hash64.md R186). The second clause gives prompt environments their cycle counts, 8n and n: the reference timing
of R274, given for orientation only, as the model reads it (log entries 8, 9, 10). -/
def Obligations.SequentialAndParallelAgree : Prop :=
  ∀ s s' : State, s.Wf → s'.Wf → s.cfg.engines = .one → s'.cfg.engines = .eight →
    s.cfg.table = s'.cfg.table → s.message = s'.message →
    (∀ (k k' : Nat) (t t' : State), OperationRun isHash64 k s t → OperationRun isHash64 k' s' t' →
      s.KeepsDuty k → s'.KeepsDuty k' → t.busy = false → t'.busy = false →
      t.hash64 = t'.hash64 ∧ t.hash64 = hash64 s.message s.cfg.table) ∧
    (s.len ≠ 0#32 →
      s.acceptsIn s.nextCycle = true → s.nextCycle.hostIs isHash64 = true → s.nextCycle.stores = [] →
      s'.acceptsIn s'.nextCycle = true → s'.nextCycle.hostIs isHash64 = true → s'.nextCycle.stores = [] →
      s.popInput.promptFor (8 * s.len.toNat) = true → s'.popInput.promptFor s'.len.toNat = true →
      ∃ t t', runs (8 * s.len.toNat + 1) s = some t ∧ runs (s'.len.toNat + 1) s' = some t' ∧
        t.busy = false ∧ t'.busy = false ∧ t.hash64 = t'.hash64)

/-- The message reads of an operation, by number and order, whatever the latency of the memory, the delays of steered
steps, the writes of other agents and the host accesses: HASH8 reads bytes 0…n−1 in ascending order; the sequential HASH64
reads 0…n−1 and then seven times 1…n−1; the parallel HASH64 reads 0…n−1 (`State.readOrder`; the sequential reads are 8n − 7). While the operation runs, the reads completed so
far are the first of these; when it ends, they are all of them; a command with LEN = 0 reads nothing
(spec/20_memory.md R66, spec/42_hash64.md R185). The last clause gives prompt environments their cycle counts, n and 8n:
the reference timing of R274, given for orientation only, as the model reads it (log entries 8, 9, 10). -/
def Obligations.MessageReadsAreInOrder : Prop :=
  (∀ (k : Nat) (s t : State), s.Wf →
    (OperationRun isHash8 k s t → readsIn (k + 1) s <+: s.readOrder .h8 ∧
      (t.busy = false → readsIn (k + 1) s = s.readOrder .h8)) ∧
    (OperationRun isHash64 k s t → readsIn (k + 1) s <+: s.readOrder .h64 ∧
      (t.busy = false → readsIn (k + 1) s = s.readOrder .h64))) ∧
  (∀ s : State, s.cfg.engines = .one → s.len ≠ 0#32 → (s.readOrder .h64).length = 8 * s.len.toNat - 7) ∧
  (∀ s t : State, s.acceptsIn s.nextCycle = true → s.len = 0#32 → step s = .next t →
    readsIn 1 s = [] ∧ ∀ c, t.mReq c = false) ∧
  ∀ s : State, s.Wf → s.acceptsIn s.nextCycle = true → s.len ≠ 0#32 → s.nextCycle.stores = [] →
    let n := s.len.toNat
    (s.nextCycle.hostIs isHash8 = true → s.popInput.promptFor n = true →
      readsIn (n + 1) s = s.addrsFrom 0 n) ∧
    (s.nextCycle.hostIs isHash64 = true → s.cfg.engines = .one → s.popInput.promptFor (8 * n) = true →
      readsIn (8 * n + 1) s = s.addrsFrom 0 n ++ (List.replicate 7 (s.addrsFrom 1 (n - 1))).flatten) ∧
    (s.nextCycle.hostIs isHash64 = true → s.cfg.engines = .eight → s.popInput.promptFor n = true →
      readsIn (n + 1) s = s.addrsFrom 0 n)

/-- Whatever other agents write and however long the memory takes, HASH8 ends as the byte hash of the bytes its reads
returned, one read for each of the LEN indices: the weaker result of spec/41_byte_hash.md R151 (for HASH64 see
`Hash64ResultAtFinish`). If the host duty of spec/70_reset_and_hazards.md R270 holds, those bytes are the message at
acceptance. -/
def Obligations.Hash8FoldsTheBytesItRead : Prop :=
  ∀ (k : Nat) (s t : State), s.Wf → OperationRun isHash8 k s t → t.busy = false →
    t.hash8 = byteHash (consumedIn (k + 1) s) s.cfg.table ∧ (consumedIn (k + 1) s).length = s.len.toNat ∧
    (s.KeepsDuty k → consumedIn (k + 1) s = s.message)

/-! ### The functions computed -/

/-- byteHash of the empty message is 0, of one byte its table entry, and one more byte folds in through the table
(spec/41_byte_hash.md R141, R142). -/
def Obligations.ByteHashFoldsThroughTheTable : Prop :=
  ∀ (t : Table) (m : List Byte) (b : Byte),
    byteHash [] t = 0#8 ∧ byteHash [b] t = lut t b ∧ byteHash (m ++ [b]) t = lut t (byteHash m t ^^^ b)

/-- Lane k of hash64 is the byte hash of the message with its first byte advanced by k, and the sum never carries between
lanes: it is the OR, and the concatenation, of the lanes (spec/42_hash64.md R171, R172). -/
def Obligations.Hash64LanesAreIndependent : Prop :=
  ∀ (m0 : Byte) (m : List Byte) (t : Table),
    (∀ k, k < 8 → laneOf (hash64 (m0 :: m) t) k = byteHash ((m0 + BitVec.ofNat 8 k) :: m) t) ∧
    hash64 (m0 :: m) t =
      (List.range 8).foldl (fun r k => r ||| ((byteHash (perturb (m0 :: m) k) t).setWidth 64 <<< (8 * k))) 0#64 ∧
    hash64 (m0 :: m) t = packLanes (Vector.ofFn fun k => byteHash (perturb (m0 :: m) k.val) t)

/-- The four entries of the default table that the spec gives (spec/40_lut.md R124), and what they make of the one-byte
messages [0x00], [0x61] and [0x68] of spec/95_test_vectors.md W1, W2, W6 and of the three-byte message
[0x68, 0x0A, 0x03] of its section 2.2. -/
def Obligations.DefaultTableKnownEntries : Prop :=
  lut .repository 0x00#8 = 98#8 ∧ lut .repository 0x01#8 = 6#8 ∧
  lut .repository 0x61#8 = 208#8 ∧ lut .repository 0x68#8 = 98#8 ∧
  byteHash [0x00#8] State.reset.cfg.table = 0x62#8 ∧ byteHash [0x61#8] State.reset.cfg.table = 0xD0#8 ∧
  byteHash [0x68#8] State.reset.cfg.table = 0x62#8 ∧
  byteHash [0x68#8, 0x0A#8, 0x03#8] State.reset.cfg.table = 0xD0#8

/-- The address of message byte i is (BASE + i) mod 2^AW, and the addresses of one message are pairwise distinct
(spec/20_memory.md R63). -/
def Obligations.MessageAddressesWrapAndAreDistinct : Prop :=
  ∀ s : State, s.Wf → ∀ i j, i < s.len.toNat → j < s.len.toNat →
    (s.msgAddr i).toNat = (s.base.toNat + i) % 2 ^ s.cfg.aw ∧ (s.msgAddr i = s.msgAddr j → i = j)

/-- A byte reads as it was last written, and a write leaves every other byte as it was. -/
def Obligations.MemoryReadAfterWrite : Prop :=
  ∀ (m : Memory) (a a' : Nat) (b : Byte), m.wf = true →
    (m.write a b).read a' = if a' = a then b else m.read a'

/-- No host read returns anything of the hidden registers: in two states that show the host the same registers and flags,
every read returns the same word (spec/10_state.md R48). -/
def Obligations.HiddenStateIsNotObservable : Prop :=
  ∀ (s s' t t' : State) (code : BitVec 6) (data : Word), s.view = s'.view → code.getLsbD 5 = false →
    exec (decode (.access code data)) s = .next t → exec (decode (.access code data)) s' = .next t' →
    t.hrdata = t'.hrdata ∧ t.view = t'.view
end

