-- ==== Sys2Proof/Laws/Memory.lean ====
section
/-! SUPPORT. The message memory keeps its canonical form under every operation. -/

namespace Sys2Proof.Machine

theorem Memory.wfFrom_mono {lo lo' : Nat} (h : lo' ≤ lo) {m : Memory} (hm : m.wfFrom lo = true) :
    m.wfFrom lo' = true := by
  cases m with
  | nil => rfl
  | cons c m =>
    obtain ⟨a, b⟩ := c
    simp only [Memory.wfFrom, Bool.and_eq_true, decide_eq_true_eq] at hm ⊢
    exact ⟨⟨by omega, hm.1.2⟩, hm.2⟩

/-- Putting a byte before a memory whose addresses all lie above it keeps the form. -/
theorem Memory.cons_wfFrom {lo a : Nat} (b : Byte) {m : Memory} (h : lo ≤ a) (hm : m.wfFrom (a + 1) = true) :
    (Memory.cons a b m).wfFrom lo = true := by
  unfold Memory.cons
  split
  · exact Memory.wfFrom_mono (by omega) hm
  · next hb => simp [Memory.wfFrom, h, hm, hb]

theorem Memory.write_wfFrom {lo a : Nat} (b : Byte) (h : lo ≤ a) {m : Memory} (hm : m.wfFrom lo = true) :
    (m.write a b).wfFrom lo = true := by
  induction m generalizing lo with
  | nil => exact Memory.cons_wfFrom b h rfl
  | cons c m ih =>
    obtain ⟨a', b'⟩ := c
    have hm' := hm
    simp only [Memory.wfFrom, Bool.and_eq_true, decide_eq_true_eq] at hm
    simp only [Memory.write]
    split
    · next hlt => exact Memory.cons_wfFrom b h (by simp [Memory.wfFrom, hm.1.2, hm.2]; omega)
    · split
      · next heq => subst heq; exact Memory.cons_wfFrom b h hm.2
      · next hge hne =>
        simp only [Memory.wfFrom, Bool.and_eq_true, decide_eq_true_eq]
        exact ⟨hm.1, ih (by omega) hm.2⟩

/-- A write keeps the canonical form. -/
theorem Memory.write_wf {m : Memory} (hm : m.wf = true) (a : Nat) (b : Byte) : (m.write a b).wf = true :=
  Memory.write_wfFrom b (Nat.zero_le a) hm

theorem Memory.cons_within {n a : Nat} (b : Byte) {m : Memory} (h : a < n) (hm : m.within n = true) :
    (Memory.cons a b m).within n = true := by
  unfold Memory.cons
  split
  · exact hm
  · simp [Memory.within] at hm ⊢; exact ⟨h, hm⟩

/-- A write below `n` lists no address from `n` on. -/
theorem Memory.write_within {n a : Nat} (b : Byte) (h : a < n) {m : Memory} (hm : m.within n = true) :
    (m.write a b).within n = true := by
  induction m with
  | nil => exact Memory.cons_within b h rfl
  | cons c m ih =>
    obtain ⟨a', b'⟩ := c
    have hm' := hm
    simp only [Memory.within, List.all_cons, Bool.and_eq_true, decide_eq_true_eq] at hm
    simp only [Memory.write]
    split
    · exact Memory.cons_within b h hm'
    · split
      · exact Memory.cons_within b h hm.2
      · simp only [Memory.within, List.all_cons, Bool.and_eq_true, decide_eq_true_eq]
        exact ⟨hm.1, ih hm.2⟩

/-- The memory of the reset state has the canonical form. -/
theorem reset_mem_wf : State.reset.mem.wf = true := rfl

/-- What `keepLow` keeps is below the power of two it cuts at. -/
theorem keepLow_lt (n : Nat) (v : Word) : (keepLow n v).toNat < 2 ^ n := by
  have h : v.toNat % 2 ^ n < 2 ^ n := Nat.mod_lt _ (Nat.two_pow_pos n)
  have h2 : v.toNat % 2 ^ n ≤ v.toNat := Nat.mod_le _ _
  have h3 := v.isLt
  simp only [keepLow, BitVec.toNat_ofNat]
  rw [Nat.mod_eq_of_lt (by omega)]; exact h

/-- `keepLow` is the remainder modulo the power of two (spec/00_scope.md R11, R12). -/
theorem keepLow_toNat (n : Nat) (v : Word) : (keepLow n v).toNat = v.toNat % 2 ^ n := by
  have h2 : v.toNat % 2 ^ n ≤ v.toNat := Nat.mod_le _ _
  have h3 := v.isLt
  simp only [keepLow, BitVec.toNat_ofNat]
  exact Nat.mod_eq_of_lt (by omega)

/-- A platform write keeps memory canonical and inside the message space. -/
theorem State.platformStore_mem (s : State) (w : Word × Byte) (h : s.mem.wf = true)
    (h' : s.mem.within (2 ^ s.cfg.aw) = true) :
    (s.platformStore w).mem.wf = true ∧ (s.platformStore w).mem.within (2 ^ s.cfg.aw) = true :=
  ⟨Memory.write_wf h _ _, Memory.write_within _ (keepLow_lt _ _) h'⟩

end Sys2Proof.Machine
end

