-- ==== Sys2Proof/Laws/State.lean ====
section
/-! SUPPORT. The small lemmas of the named state updates: one per field per update, true by `rfl`, so that no later proof
unfolds a record update. -/

namespace Sys2Proof.Machine

variable (s : State)

/-! ### `returnWord`: a host read's answer -/

@[simp] theorem State.returnWord_cfg (w : Word) : (s.returnWord w).cfg = s.cfg := rfl
@[simp] theorem State.returnWord_base (w : Word) : (s.returnWord w).base = s.base := rfl
@[simp] theorem State.returnWord_len (w : Word) : (s.returnWord w).len = s.len := rfl
@[simp] theorem State.returnWord_hash8 (w : Word) : (s.returnWord w).hash8 = s.hash8 := rfl
@[simp] theorem State.returnWord_hash64 (w : Word) : (s.returnWord w).hash64 = s.hash64 := rfl
@[simp] theorem State.returnWord_done (w : Word) : (s.returnWord w).done = s.done := rfl
@[simp] theorem State.returnWord_errEmpty (w : Word) : (s.returnWord w).errEmpty = s.errEmpty := rfl
@[simp] theorem State.returnWord_errCmd (w : Word) : (s.returnWord w).errCmd = s.errCmd := rfl
@[simp] theorem State.returnWord_errBusy (w : Word) : (s.returnWord w).errBusy = s.errBusy := rfl
@[simp] theorem State.returnWord_op (w : Word) : (s.returnWord w).op = s.op := rfl
@[simp] theorem State.returnWord_idx (w : Word) : (s.returnWord w).idx = s.idx := rfl
@[simp] theorem State.returnWord_iter (w : Word) : (s.returnWord w).iter = s.iter := rfl
@[simp] theorem State.returnWord_fb (w : Word) : (s.returnWord w).fb = s.fb := rfl
@[simp] theorem State.returnWord_lanes (w : Word) : (s.returnWord w).lanes = s.lanes := rfl
@[simp] theorem State.returnWord_accv (w : Word) : (s.returnWord w).accv = s.accv := rfl
@[simp] theorem State.returnWord_rdpend (w : Word) : (s.returnWord w).rdpend = s.rdpend := rfl
@[simp] theorem State.returnWord_mem (w : Word) : (s.returnWord w).mem = s.mem := rfl
@[simp] theorem State.returnWord_hrdata (w : Word) : (s.returnWord w).hrdata = w := rfl
@[simp] theorem State.returnWord_disturbed (w : Word) : (s.returnWord w).disturbed = s.disturbed := rfl
@[simp] theorem State.returnWord_draws (w : Word) : (s.returnWord w).draws = s.draws := rfl
@[simp] theorem State.returnWord_inputs (w : Word) : (s.returnWord w).inputs = s.inputs := rfl
@[simp] theorem State.returnWord_busy (w : Word) : (s.returnWord w).busy = s.busy := rfl

/-! ### `clearFlags`: CLEAR -/

@[simp] theorem State.clearFlags_cfg : (s.clearFlags).cfg = s.cfg := rfl
@[simp] theorem State.clearFlags_base : (s.clearFlags).base = s.base := rfl
@[simp] theorem State.clearFlags_len : (s.clearFlags).len = s.len := rfl
@[simp] theorem State.clearFlags_hash8 : (s.clearFlags).hash8 = s.hash8 := rfl
@[simp] theorem State.clearFlags_hash64 : (s.clearFlags).hash64 = s.hash64 := rfl
@[simp] theorem State.clearFlags_done : (s.clearFlags).done = false := rfl
@[simp] theorem State.clearFlags_errEmpty : (s.clearFlags).errEmpty = false := rfl
@[simp] theorem State.clearFlags_errCmd : (s.clearFlags).errCmd = false := rfl
@[simp] theorem State.clearFlags_errBusy : (s.clearFlags).errBusy = false := rfl
@[simp] theorem State.clearFlags_op : (s.clearFlags).op = s.op := rfl
@[simp] theorem State.clearFlags_idx : (s.clearFlags).idx = s.idx := rfl
@[simp] theorem State.clearFlags_iter : (s.clearFlags).iter = s.iter := rfl
@[simp] theorem State.clearFlags_fb : (s.clearFlags).fb = s.fb := rfl
@[simp] theorem State.clearFlags_lanes : (s.clearFlags).lanes = s.lanes := rfl
@[simp] theorem State.clearFlags_accv : (s.clearFlags).accv = s.accv := rfl
@[simp] theorem State.clearFlags_rdpend : (s.clearFlags).rdpend = s.rdpend := rfl
@[simp] theorem State.clearFlags_mem : (s.clearFlags).mem = s.mem := rfl
@[simp] theorem State.clearFlags_hrdata : (s.clearFlags).hrdata = s.hrdata := rfl
@[simp] theorem State.clearFlags_disturbed : (s.clearFlags).disturbed = s.disturbed := rfl
@[simp] theorem State.clearFlags_draws : (s.clearFlags).draws = s.draws := rfl
@[simp] theorem State.clearFlags_inputs : (s.clearFlags).inputs = s.inputs := rfl
@[simp] theorem State.clearFlags_busy : (s.clearFlags).busy = s.busy := rfl

/-! ### `acceptStart`: accepting a start -/

@[simp] theorem State.acceptStart_cfg : (s.acceptStart).cfg = s.cfg := rfl
@[simp] theorem State.acceptStart_base : (s.acceptStart).base = s.base := rfl
@[simp] theorem State.acceptStart_len : (s.acceptStart).len = s.len := rfl
@[simp] theorem State.acceptStart_hash8 : (s.acceptStart).hash8 = s.hash8 := rfl
@[simp] theorem State.acceptStart_hash64 : (s.acceptStart).hash64 = s.hash64 := rfl
@[simp] theorem State.acceptStart_done : (s.acceptStart).done = false := rfl
@[simp] theorem State.acceptStart_errEmpty : (s.acceptStart).errEmpty = false := rfl
@[simp] theorem State.acceptStart_errCmd : (s.acceptStart).errCmd = s.errCmd := rfl
@[simp] theorem State.acceptStart_errBusy : (s.acceptStart).errBusy = s.errBusy := rfl
@[simp] theorem State.acceptStart_op : (s.acceptStart).op = s.op := rfl
@[simp] theorem State.acceptStart_idx : (s.acceptStart).idx = s.idx := rfl
@[simp] theorem State.acceptStart_iter : (s.acceptStart).iter = s.iter := rfl
@[simp] theorem State.acceptStart_fb : (s.acceptStart).fb = s.fb := rfl
@[simp] theorem State.acceptStart_lanes : (s.acceptStart).lanes = s.lanes := rfl
@[simp] theorem State.acceptStart_accv : (s.acceptStart).accv = s.accv := rfl
@[simp] theorem State.acceptStart_rdpend : (s.acceptStart).rdpend = s.rdpend := rfl
@[simp] theorem State.acceptStart_mem : (s.acceptStart).mem = s.mem := rfl
@[simp] theorem State.acceptStart_hrdata : (s.acceptStart).hrdata = s.hrdata := rfl
@[simp] theorem State.acceptStart_disturbed : (s.acceptStart).disturbed = s.disturbed := rfl
@[simp] theorem State.acceptStart_draws : (s.acceptStart).draws = s.draws := rfl
@[simp] theorem State.acceptStart_inputs : (s.acceptStart).inputs = s.inputs := rfl
@[simp] theorem State.acceptStart_busy : (s.acceptStart).busy = s.busy := rfl

/-! ### `setAcc`: writing ACC -/

@[simp] theorem State.setAcc_cfg (b : Byte) : (s.setAcc b).cfg = s.cfg := rfl
@[simp] theorem State.setAcc_base (b : Byte) : (s.setAcc b).base = s.base := rfl
@[simp] theorem State.setAcc_len (b : Byte) : (s.setAcc b).len = s.len := rfl
@[simp] theorem State.setAcc_hash8 (b : Byte) : (s.setAcc b).hash8 = s.hash8 := rfl
@[simp] theorem State.setAcc_hash64 (b : Byte) : (s.setAcc b).hash64 = s.hash64 := rfl
@[simp] theorem State.setAcc_done (b : Byte) : (s.setAcc b).done = s.done := rfl
@[simp] theorem State.setAcc_errEmpty (b : Byte) : (s.setAcc b).errEmpty = s.errEmpty := rfl
@[simp] theorem State.setAcc_errCmd (b : Byte) : (s.setAcc b).errCmd = s.errCmd := rfl
@[simp] theorem State.setAcc_errBusy (b : Byte) : (s.setAcc b).errBusy = s.errBusy := rfl
@[simp] theorem State.setAcc_op (b : Byte) : (s.setAcc b).op = s.op := rfl
@[simp] theorem State.setAcc_idx (b : Byte) : (s.setAcc b).idx = s.idx := rfl
@[simp] theorem State.setAcc_iter (b : Byte) : (s.setAcc b).iter = s.iter := rfl
@[simp] theorem State.setAcc_fb (b : Byte) : (s.setAcc b).fb = s.fb := rfl
@[simp] theorem State.setAcc_lanes (b : Byte) : (s.setAcc b).lanes = s.lanes := rfl
@[simp] theorem State.setAcc_accv (b : Byte) : (s.setAcc b).accv = s.accv.set 0 b := rfl
@[simp] theorem State.setAcc_rdpend (b : Byte) : (s.setAcc b).rdpend = s.rdpend := rfl
@[simp] theorem State.setAcc_mem (b : Byte) : (s.setAcc b).mem = s.mem := rfl
@[simp] theorem State.setAcc_hrdata (b : Byte) : (s.setAcc b).hrdata = s.hrdata := rfl
@[simp] theorem State.setAcc_disturbed (b : Byte) : (s.setAcc b).disturbed = s.disturbed := rfl
@[simp] theorem State.setAcc_draws (b : Byte) : (s.setAcc b).draws = s.draws := rfl
@[simp] theorem State.setAcc_inputs (b : Byte) : (s.setAcc b).inputs = s.inputs := rfl
@[simp] theorem State.setAcc_busy (b : Byte) : (s.setAcc b).busy = s.busy := rfl

/-! ### `finish`: `finish` -/

@[simp] theorem State.finish_cfg : (s.finish).cfg = s.cfg := rfl
@[simp] theorem State.finish_base : (s.finish).base = s.base := rfl
@[simp] theorem State.finish_len : (s.finish).len = s.len := rfl
@[simp] theorem State.finish_hash8 : (s.finish).hash8 = s.hash8 := rfl
@[simp] theorem State.finish_hash64 : (s.finish).hash64 = s.hash64 := rfl
@[simp] theorem State.finish_done : (s.finish).done = true := rfl
@[simp] theorem State.finish_errEmpty : (s.finish).errEmpty = s.errEmpty := rfl
@[simp] theorem State.finish_errCmd : (s.finish).errCmd = s.errCmd := rfl
@[simp] theorem State.finish_errBusy : (s.finish).errBusy = s.errBusy := rfl
@[simp] theorem State.finish_op : (s.finish).op = .none := rfl
@[simp] theorem State.finish_idx : (s.finish).idx = s.idx := rfl
@[simp] theorem State.finish_iter : (s.finish).iter = s.iter := rfl
@[simp] theorem State.finish_fb : (s.finish).fb = s.fb := rfl
@[simp] theorem State.finish_lanes : (s.finish).lanes = s.lanes := rfl
@[simp] theorem State.finish_accv : (s.finish).accv = s.accv := rfl
@[simp] theorem State.finish_rdpend : (s.finish).rdpend = s.rdpend := rfl
@[simp] theorem State.finish_mem : (s.finish).mem = s.mem := rfl
@[simp] theorem State.finish_hrdata : (s.finish).hrdata = s.hrdata := rfl
@[simp] theorem State.finish_disturbed : (s.finish).disturbed = s.disturbed := rfl
@[simp] theorem State.finish_draws : (s.finish).draws = s.draws := rfl
@[simp] theorem State.finish_inputs : (s.finish).inputs = s.inputs := rfl
@[simp] theorem State.finish_busy : s.finish.busy = false := rfl

/-! ### `popInput`: taking the next input -/

@[simp] theorem State.popInput_cfg : (s.popInput).cfg = s.cfg := rfl
@[simp] theorem State.popInput_base : (s.popInput).base = s.base := rfl
@[simp] theorem State.popInput_len : (s.popInput).len = s.len := rfl
@[simp] theorem State.popInput_hash8 : (s.popInput).hash8 = s.hash8 := rfl
@[simp] theorem State.popInput_hash64 : (s.popInput).hash64 = s.hash64 := rfl
@[simp] theorem State.popInput_done : (s.popInput).done = s.done := rfl
@[simp] theorem State.popInput_errEmpty : (s.popInput).errEmpty = s.errEmpty := rfl
@[simp] theorem State.popInput_errCmd : (s.popInput).errCmd = s.errCmd := rfl
@[simp] theorem State.popInput_errBusy : (s.popInput).errBusy = s.errBusy := rfl
@[simp] theorem State.popInput_op : (s.popInput).op = s.op := rfl
@[simp] theorem State.popInput_idx : (s.popInput).idx = s.idx := rfl
@[simp] theorem State.popInput_iter : (s.popInput).iter = s.iter := rfl
@[simp] theorem State.popInput_fb : (s.popInput).fb = s.fb := rfl
@[simp] theorem State.popInput_lanes : (s.popInput).lanes = s.lanes := rfl
@[simp] theorem State.popInput_accv : (s.popInput).accv = s.accv := rfl
@[simp] theorem State.popInput_rdpend : (s.popInput).rdpend = s.rdpend := rfl
@[simp] theorem State.popInput_mem : (s.popInput).mem = s.mem := rfl
@[simp] theorem State.popInput_hrdata : (s.popInput).hrdata = s.hrdata := rfl
@[simp] theorem State.popInput_disturbed : (s.popInput).disturbed = s.disturbed := rfl
@[simp] theorem State.popInput_draws : (s.popInput).draws = s.draws := rfl
@[simp] theorem State.popInput_inputs : (s.popInput).inputs = s.inputs.tail := rfl
@[simp] theorem State.popInput_busy : (s.popInput).busy = s.busy := rfl

/-! ### `raise`: it sets its own flag and no other (spec/60_exceptions.md R231) -/

@[simp] theorem State.raise_cfg (e : ErrorFlag) : (s.raise e).cfg = s.cfg := by cases e <;> rfl
@[simp] theorem State.raise_base (e : ErrorFlag) : (s.raise e).base = s.base := by cases e <;> rfl
@[simp] theorem State.raise_len (e : ErrorFlag) : (s.raise e).len = s.len := by cases e <;> rfl
@[simp] theorem State.raise_hash8 (e : ErrorFlag) : (s.raise e).hash8 = s.hash8 := by cases e <;> rfl
@[simp] theorem State.raise_hash64 (e : ErrorFlag) : (s.raise e).hash64 = s.hash64 := by cases e <;> rfl
@[simp] theorem State.raise_done (e : ErrorFlag) : (s.raise e).done = s.done := by cases e <;> rfl
@[simp] theorem State.raise_errEmpty (e : ErrorFlag) : (s.raise e).errEmpty = (s.errEmpty || e == .empty) := by
  cases e <;> simp +decide [State.raise]
@[simp] theorem State.raise_errCmd (e : ErrorFlag) : (s.raise e).errCmd = (s.errCmd || e == .cmd) := by
  cases e <;> simp +decide [State.raise]
@[simp] theorem State.raise_errBusy (e : ErrorFlag) : (s.raise e).errBusy = (s.errBusy || e == .busy) := by
  cases e <;> simp +decide [State.raise]
@[simp] theorem State.raise_op (e : ErrorFlag) : (s.raise e).op = s.op := by cases e <;> rfl
@[simp] theorem State.raise_idx (e : ErrorFlag) : (s.raise e).idx = s.idx := by cases e <;> rfl
@[simp] theorem State.raise_iter (e : ErrorFlag) : (s.raise e).iter = s.iter := by cases e <;> rfl
@[simp] theorem State.raise_fb (e : ErrorFlag) : (s.raise e).fb = s.fb := by cases e <;> rfl
@[simp] theorem State.raise_lanes (e : ErrorFlag) : (s.raise e).lanes = s.lanes := by cases e <;> rfl
@[simp] theorem State.raise_accv (e : ErrorFlag) : (s.raise e).accv = s.accv := by cases e <;> rfl
@[simp] theorem State.raise_rdpend (e : ErrorFlag) : (s.raise e).rdpend = s.rdpend := by cases e <;> rfl
@[simp] theorem State.raise_mem (e : ErrorFlag) : (s.raise e).mem = s.mem := by cases e <;> rfl
@[simp] theorem State.raise_hrdata (e : ErrorFlag) : (s.raise e).hrdata = s.hrdata := by cases e <;> rfl
@[simp] theorem State.raise_disturbed (e : ErrorFlag) : (s.raise e).disturbed = s.disturbed := by cases e <;> rfl
@[simp] theorem State.raise_draws (e : ErrorFlag) : (s.raise e).draws = s.draws := by cases e <;> rfl
@[simp] theorem State.raise_inputs (e : ErrorFlag) : (s.raise e).inputs = s.inputs := by cases e <;> rfl
@[simp] theorem State.raise_busy (e : ErrorFlag) : (s.raise e).busy = s.busy := by cases e <;> rfl

/-! ### Accessors -/

@[simp] theorem State.acc_setAcc (b : Byte) : (s.setAcc b).acc = b := by
  simp [State.acc, State.setAcc]

theorem State.busy_iff : s.busy = true ↔ s.op ≠ .none := by
  simp [State.busy]

theorem State.not_busy_iff : s.busy = false ↔ s.op = .none := by
  simp [State.busy]

end Sys2Proof.Machine
end

