-- ==== Sys2Proof/Laws/Ops.lean ====
section
/-! SUPPORT. For each shared operation, once, what it can do; the proofs cite these and do not unfold it. -/

namespace Sys2Proof.Machine

/-! ### Platform writes -/

/-- A platform write changes memory and the record of disturbed addresses, and nothing else. -/
theorem State.platformStore_eq (s : State) (w : Word × Byte) :
    ∃ m d, s.platformStore w = { s with mem := m, disturbed := d } := ⟨_, _, rfl⟩

/-- A cycle's platform writes change memory and the record of disturbed addresses, and nothing else. -/
theorem State.platformStores_eq (s : State) (l : List (Word × Byte)) :
    ∃ m d, s.platformStores l = { s with mem := m, disturbed := d } := by
  unfold State.platformStores
  induction l generalizing s with
  | nil => exact ⟨s.mem, s.disturbed, rfl⟩
  | cons w l ih =>
    obtain ⟨m, d, h⟩ := ih (s.platformStore w)
    exact ⟨m, d, by rw [List.foldl_cons, h]; rfl⟩

@[simp] theorem State.platformStores_nil (s : State) : s.platformStores [] = s := rfl

/-- Platform writes keep memory canonical and inside the message space. -/
theorem State.platformStores_mem (s : State) (l : List (Word × Byte)) (h : s.mem.wf = true)
    (h' : s.mem.within (2 ^ s.cfg.aw) = true) :
    (s.platformStores l).mem.wf = true ∧ (s.platformStores l).mem.within (2 ^ s.cfg.aw) = true := by
  unfold State.platformStores
  induction l generalizing s with
  | nil => exact ⟨h, h'⟩
  | cons w l ih =>
    have := State.platformStore_mem s w h h'
    exact ih (s.platformStore w) this.1 this.2

/-- While no operation runs a platform write disturbs nothing. -/
theorem State.platformStores_idle (s : State) (l : List (Word × Byte)) (h : s.busy = false) :
    (s.platformStores l).disturbed = s.disturbed := by
  unfold State.platformStores
  induction l generalizing s with
  | nil => rfl
  | cons w l ih =>
    rw [List.foldl_cons, ih (s.platformStore w) h]
    simp [State.platformStore, h]

/-- A platform write while an operation runs disturbs its address and no other. -/
theorem State.mem_platformStore_disturbed (s : State) (w : Word × Byte) (hb : s.busy = true) (a : Nat) :
    a ∈ (s.platformStore w).disturbed ↔ a ∈ s.disturbed ∨ (keepLow s.cfg.aw w.1).toNat = a := by
  simp only [State.platformStore, hb, if_true, List.mem_insert_iff]
  exact ⟨fun h => h.elim (fun e => .inr e.symm) .inl, fun h => h.elim .inr (fun e => .inl e.symm)⟩

/-- A cycle's platform writes while an operation runs disturb the addresses they write and no other
(spec/20_memory.md R78). -/
theorem State.mem_platformStores_disturbed (s : State) (l : List (Word × Byte)) (hb : s.busy = true) (a : Nat) :
    a ∈ (s.platformStores l).disturbed ↔
      a ∈ s.disturbed ∨ (l.any fun w => (keepLow s.cfg.aw w.1).toNat == a) = true := by
  unfold State.platformStores
  induction l generalizing s with
  | nil => simp
  | cons w l ih =>
    rw [List.foldl_cons, ih (s.platformStore w) hb, State.mem_platformStore_disturbed s w hb a, or_assoc,
      List.any_cons, Bool.or_eq_true, beq_iff_eq]
    rfl

/-! ### Commands -/

/-- While an operation runs a start is refused: ERR_BUSY and nothing else (spec/43_control.md R203). -/
theorem State.startHash8_busy {s : State} (h : s.busy = true) : s.startHash8 = s.raise .busy := by
  simp [State.startHash8, h]

theorem State.startHash64_busy {s : State} (h : s.busy = true) : s.startHash64 = s.raise .busy := by
  simp [State.startHash64, h]

/-- What HASH8 does while idle (spec/41_byte_hash.md R143, R144). -/
theorem State.startHash8_idle {s : State} (h : s.busy = false) :
    s.startHash8 =
      if s.len = 0#32 then { s with done := true, errEmpty := false, hash8 := 0#8 }
      else { s with done := false, errEmpty := false, op := .h8, idx := 0#32, accv := s.accv.set 0 0#8, disturbed := [] } := by
  simp [State.startHash8, h, State.acceptStart, State.setAcc]

/-- What HASH64 does while idle (spec/42_hash64.md R173, R174). -/
theorem State.startHash64_idle {s : State} (h : s.busy = false) :
    s.startHash64 =
      if s.len = 0#32 then { s with done := true, errEmpty := true }
      else
        { s with
          done := false, errEmpty := false, op := .h64, iter := 0#3, idx := 0#32, disturbed := []
          lanes := if s.cfg.engines = .one then 0#64 else s.lanes
          accv := if s.cfg.engines = .one then s.accv.set 0 0#8 else Vector.replicate 8 0#8 } := by
  unfold State.startHash64
  rw [h, if_neg (by decide)]
  by_cases hl : s.len = 0#32
  · rw [if_pos hl, if_pos hl]; rfl
  · simp only [if_neg hl]
    cases he : s.cfg.engines <;> rfl

/-! ### A host access -/

/-- The state a host access leaves, by its kind: the command it issues, the operand register it writes, the word it
returns, or nothing. -/
theorem exec_cases {i : Instr} {s t : State} (h : exec i s = .next t) :
    t = s ∨ (∃ w, t = s.returnWord w) ∨ t = s.clearFlags ∨ t = s.raise .cmd ∨ t = s.startHash8 ∨ t = s.startHash64 ∨
      (s.busy = true ∧ t = s.raise .busy) ∨ (s.busy = false ∧ ∃ d, t = { s with base := keepLow s.cfg.aw d }) ∨
      (s.busy = false ∧ ∃ d, t = { s with len := keepLow s.cfg.lw d }) := by
  have hop : ∀ (w : State), s.unlessBusy w = if s.busy = true then s.raise .busy else w := fun _ => rfl
  cases i with
  | cmdNop _ => injection h with h; exact .inl h.symm
  | cmdHash8 _ => injection h with h; simp [← h]
  | cmdHash64 _ => injection h with h; simp [← h]
  | cmdClear _ => injection h with h; simp [← h]
  | cmdReserved _ _ => injection h with h; simp [← h]
  | rdCtrl _ | rdStatus _ | rdBase _ | rdLen _ | rdHash8 _ | rdHash64Lo _ | rdHash64Hi _ | rdRsvd _ =>
    injection h with h; exact .inr (.inl ⟨_, h.symm⟩)
  | wrStatus _ _ | wrHash8 _ _ | wrHash64Lo _ _ | wrHash64Hi _ _ | wrRsvd _ _ =>
    injection h with h; exact .inl h.symm
  | wrCtrl _ data =>
    injection h with h
    subst h
    unfold State.issueCommand
    split <;> simp
  | wrBase _ data =>
    injection h with h
    subst h
    rw [hop]
    split
    · next hb => simp [hb]
    · next hb =>
      simp only [Bool.not_eq_true] at hb
      right; right; right; right; right; right; right; left
      exact ⟨hb, _, rfl⟩
  | wrLen _ data =>
    injection h with h
    subst h
    rw [hop]
    split
    · next hb => simp [hb]
    · next hb =>
      simp only [Bool.not_eq_true] at hb
      right; right; right; right; right; right; right; right
      exact ⟨hb, _, rfl⟩

/-- What a host access can change while an operation runs: the four flags and the word returned. -/
theorem exec_busy {i : Instr} {s t : State} (h : exec i s = .next t) (hb : s.busy = true) :
    ∃ d ee ec eb w, t = { s with done := d, errEmpty := ee, errCmd := ec, errBusy := eb, hrdata := w } ∧
      (s.done = false → d = false) ∧ (s.errEmpty = false → ee = false) := by
  obtain rfl | ⟨w, rfl⟩ | rfl | rfl | h1 | h1 | ⟨_, rfl⟩ | ⟨hn, _⟩ | ⟨hn, _⟩ := exec_cases h
  · exact ⟨_, _, _, _, _, rfl, id, id⟩
  · exact ⟨_, _, _, _, _, rfl, id, id⟩
  · exact ⟨_, _, _, _, _, rfl, fun _ => rfl, fun _ => rfl⟩
  · exact ⟨_, _, _, _, _, rfl, id, id⟩
  · rw [State.startHash8_busy hb] at h1; subst h1; exact ⟨_, _, _, _, _, rfl, id, id⟩
  · rw [State.startHash64_busy hb] at h1; subst h1; exact ⟨_, _, _, _, _, rfl, id, id⟩
  · exact ⟨_, _, _, _, _, rfl, id, id⟩
  · rw [hn] at hb; cases hb
  · rw [hn] at hb; cases hb

/-- A host access never changes the configuration, the message memory, the inputs, the draws or a pending request. -/
theorem exec_frame {i : Instr} {s t : State} (h : exec i s = .next t) :
    t.cfg = s.cfg ∧ t.mem = s.mem ∧ t.inputs = s.inputs ∧ t.draws = s.draws ∧ t.rdpend = s.rdpend ∧ t.fb = s.fb := by
  cases hb : s.busy with
  | true => obtain ⟨d, ee, ec, eb, w, rfl, -, -⟩ := exec_busy h hb; simp
  | false =>
    obtain rfl | ⟨w, rfl⟩ | rfl | rfl | h1 | h1 | ⟨hy, _⟩ | ⟨_, d, rfl⟩ | ⟨_, d, rfl⟩ := exec_cases h
    · simp
    · simp
    · simp
    · simp
    · rw [State.startHash8_idle hb] at h1; subst h1; split <;> simp
    · rw [State.startHash64_idle hb] at h1; subst h1; split <;> simp
    · rw [hb] at hy; cases hy
    · simp
    · simp

end Sys2Proof.Machine
end

