-- ==== Sys2Proof/Laws/Engine.lean ====
section
/-! SUPPORT. What an engine step and the engine's part of a cycle can do. -/

namespace Sys2Proof.Machine

/-- The HASH8 step (spec/41_byte_hash.md R147–R150). -/
theorem State.stepHash8_eq (s : State) (b : Byte) :
    s.stepHash8 b =
      if s.lastByte = true then
        { s with accv := s.accv.set 0 (s.fold b), hash8 := s.fold b, op := .none, done := true }
      else { s with accv := s.accv.set 0 (s.fold b), idx := s.nextIdx } := rfl

/-- The sequential HASH64 step (spec/42_hash64.md R175–R179). -/
theorem State.stepHash64Seq_eq (s : State) (b : Byte) :
    s.stepHash64Seq b =
      if s.lastByte = true then
        if s.iter = 7#3 then
          { s with
            fb := s.capturedFb b, accv := s.accv.set 0 (s.fold b)
            hash64 := s.fold b ++ s.lanes.extractLsb' 0 56, op := .none, done := true }
        else
          { s with
            fb := s.capturedFb b, accv := s.accv.set 0 0#8, lanes := setLane s.lanes s.iter.toNat (s.fold b)
            iter := s.iter + 1#3, idx := 0#32 }
      else { s with fb := s.capturedFb b, accv := s.accv.set 0 (s.fold b), idx := s.nextIdx } := rfl

/-- The parallel HASH64 step (spec/42_hash64.md R180, R181). -/
theorem State.stepHash64Par_eq (s : State) (b : Byte) :
    s.stepHash64Par b =
      if s.lastByte = true then
        { s with
          fb := if s.idx = 0#32 then b else s.fb
          accv := s.foldLanes b, hash64 := packLanes (s.foldLanes b), op := .none, done := true }
      else { s with fb := if s.idx = 0#32 then b else s.fb, accv := s.foldLanes b, idx := s.nextIdx } := rfl

/-- What an engine step can change: the result registers, DONE, and the hidden registers of the operation; what it
cannot: the configuration, BASE, LEN, the error flags, the message memory, the word returned to the host. -/
theorem State.engineStep_frame (s : State) (b : Byte) :
    ∃ h8 h64 d o i it f l a, s.engineStep b =
      { s with hash8 := h8, hash64 := h64, done := d, op := o, idx := i, iter := it, fb := f, lanes := l, accv := a } := by
  unfold State.engineStep
  split
  · exact ⟨_, _, _, _, _, _, _, _, _, rfl⟩
  · rw [State.stepHash8_eq]; split <;> exact ⟨_, _, _, _, _, _, _, _, _, rfl⟩
  · unfold State.stepHash64
    split
    · rw [State.stepHash64Seq_eq]
      split
      · split <;> exact ⟨_, _, _, _, _, _, _, _, _, rfl⟩
      · exact ⟨_, _, _, _, _, _, _, _, _, rfl⟩
    · rw [State.stepHash64Par_eq]; split <;> exact ⟨_, _, _, _, _, _, _, _, _, rfl⟩

/-- The engine's part of a cycle: it waits with a request outstanding, takes a read byte, waits at a steered step, or
takes a steered byte (spec/20_memory.md R62, spec/41_byte_hash.md R145). -/
theorem State.engineCycle_cases (s : State) (c : Cycle) :
    (s.readNeeded = true ∧ c.ack = false ∧ s.engineCycle c = { s with rdpend := true }) ∨
    (s.readNeeded = true ∧ c.ack = true ∧ s.engineCycle c = s.takeAnswer.engineStep s.answer.1) ∨
    (s.readNeeded = false ∧ c.steerWait = true ∧ s.engineCycle c = s) ∨
    (s.readNeeded = false ∧ c.steerWait = false ∧ s.engineCycle c = s.engineStep s.steeredByte) := by
  unfold State.engineCycle
  cases s.readNeeded <;> cases c.ack <;> cases c.steerWait <;> simp

end Sys2Proof.Machine
end

