-- ==== Sys2Proof/Laws/Lanes.lean ====
section
/-! SUPPORT. Lanes of a 64-bit value (spec/42_hash64.md R171), and the message as a list. -/

namespace Sys2Proof.Machine

theorem laneOf_getLsbD (r : Dword) (k i : Nat) : (laneOf r k).getLsbD i = (decide (i < 8) && r.getLsbD (8 * k + i)) := by
  simp [laneOf, BitVec.getLsbD_extractLsb']

/-- Writing a lane writes that lane and no other (spec/42_hash64.md R178). -/
theorem laneOf_setLane (r : Dword) {k j : Nat} (b : Byte) (hk : k < 8) (hj : j < 8) :
    laneOf (setLane r k b) j = if j = k then b else laneOf r j := by
  apply BitVec.eq_of_getLsbD_eq
  intro i hi
  have key : (setLane r k b).getLsbD (8 * j + i) =
      (if j = k then b.getLsbD i else r.getLsbD (8 * j + i)) := by
    have hff : ∀ n, (0xFF#64).getLsbD n = decide (n < 8) := by
      intro n
      by_cases hn : n < 64
      · revert n; decide
      · rw [BitVec.getLsbD_of_ge _ _ (by omega)]; simp; omega
    simp only [setLane, BitVec.getLsbD_or, BitVec.getLsbD_and, BitVec.getLsbD_not, BitVec.getLsbD_shiftLeft,
      BitVec.getLsbD_setWidth, hff]
    by_cases h : j = k
    · subst h
      have h1 : ¬ (8 * j + i < 8 * j) := by omega
      have h2 : 8 * j + i - 8 * j = i := by omega
      have h3 : 8 * j + i < 64 := by omega
      have h4 : i < 64 := by omega
      simp [h1, h2, h3, h4, hi]
    · simp only [if_neg h]
      rcases Nat.lt_or_gt_of_ne h with hlt | hgt
      · have h1 : 8 * j + i < 8 * k := by omega
        have h3 : 8 * j + i < 64 := by omega
        simp [h1, h3]
      · have h1 : ¬ (8 * j + i < 8 * k) := by omega
        have h3 : 8 * j + i < 64 := by omega
        have h4 : ¬ (8 * j + i - 8 * k < 8) := by omega
        have h5 : b.getLsbD (8 * j + i - 8 * k) = false := BitVec.getLsbD_of_ge _ _ (by omega)
        simp [h1, h3, h4, h5]
  rw [laneOf_getLsbD, key]
  split
  · simp [hi]
  · rw [laneOf_getLsbD]

/-- Two 64-bit values with the same lanes are the same. -/
theorem eq_of_laneOf_eq {r r' : Dword} (h : ∀ k, k < 8 → laneOf r k = laneOf r' k) : r = r' := by
  apply BitVec.eq_of_getLsbD_eq
  intro i hi
  have hk := congrArg (fun b => b.getLsbD (i % 8)) (h (i / 8) (by omega))
  simp only [laneOf_getLsbD] at hk
  have h8 : i % 8 < 8 := Nat.mod_lt _ (by decide)
  have hi' : 8 * (i / 8) + i % 8 = i := Nat.div_add_mod i 8
  simpa [h8, hi'] using hk

/-- The lanes of the concatenation are the values concatenated (spec/42_hash64.md R172, R181). -/
theorem laneOf_packLanes (v : Vector Byte 8) (k : Nat) (h : k < 8) : laneOf (packLanes v) k = v[k] := by
  apply BitVec.eq_of_getLsbD_eq
  intro i hi
  rw [laneOf_getLsbD]
  have hk : k = 0 ∨ k = 1 ∨ k = 2 ∨ k = 3 ∨ k = 4 ∨ k = 5 ∨ k = 6 ∨ k = 7 := by omega
  simp only [packLanes, BitVec.getLsbD_append]
  rcases hk with rfl | rfl | rfl | rfl | rfl | rfl | rfl | rfl
  · simp [hi]
  all_goals
    simp only [hi, decide_true, Bool.true_and]
    repeat' split
    all_goals first | omega | (congr 1; omega)

/-- A message has LEN bytes. -/
@[simp] theorem State.message_length (s : State) : s.message.length = s.len.toNat := by
  simp [State.message]

/-- Message byte i is the byte of memory at addr(i) (spec/00_scope.md R14, spec/20_memory.md R63). -/
theorem State.message_getElem (s : State) (i : Nat) (h : i < s.message.length) :
    s.message[i] = s.mem.read (s.msgAddr i).toNat := by
  simp [State.message]

@[simp] theorem perturb_length (m : List Byte) (k : Nat) : (perturb m k).length = m.length := by
  cases m <;> rfl

end Sys2Proof.Machine
end

