-- ==== Sys2Proof/Laws/PerInstr.lean ====
section
/-! SUPPORT. Statements about every instruction as syntax, one lemma per constructor. RowMatch: the encoding of a
well-formed instruction has the fixed bits of its own row of spec/opcode_table.json. -/

namespace Sys2Proof.Laws

/-- The low three bits of a command word are its OPC (spec/30_encoding.md R92). -/
theorem commandWord_opc (ign : BitVec 29) (opc : BitVec 3) : (ign ++ opc) &&& 0x00000007#32 = opc.setWidth 32 := by
  apply BitVec.eq_of_getLsbD_eq
  intro i hi
  have h7 : (0x00000007#32).getLsbD i = decide (i < 3) := by
    revert i; decide
  simp only [BitVec.getLsbD_and, BitVec.getLsbD_append, h7, BitVec.getLsbD_setWidth, hi, decide_true, Bool.true_and]
  by_cases h : i < 3
  · simp [h]
  · simp [h, BitVec.getLsbD_of_ge opc i (by omega)]

/-- Bit 2 of a command word is bit 2 of its OPC (spec/30_encoding.md R95). -/
theorem commandWord_bit2 (ign : BitVec 29) (opc : BitVec 3) :
    (ign ++ opc) &&& 0x00000004#32 = if opc.getLsbD 2 then 0x00000004#32 else 0x00000000#32 := by
  have h : (ign ++ opc) &&& 0x00000004#32 = ((ign ++ opc) &&& 0x00000007#32) &&& 0x00000004#32 := by
    rw [BitVec.and_assoc]; rfl
  rw [h, commandWord_opc]
  clear h; revert opc; decide

/-- The encoding of `i` has the fixed bits of the row whose mnemonic `i` bears. -/
def RowMatch.Statement (i : Instr) : Prop :=
  i.wellFormed = true →
    match encode i with
    | .command w => ∃ r ∈ commandRows, r.mnemonic = i.mnemonic ∧ r.selects w = true
    | .access code _ => ∃ r ∈ accessRows, r.mnemonic = i.mnemonic ∧ r.selects code = true

namespace RowMatch

theorem cmdNop (ign : BitVec 29) : Statement (.cmdNop ign) := fun _ =>
  ⟨⟨"CMD_NOP", 0x00000000, 0x00000007⟩, by simp [commandRows], rfl, by
    simp only [OpRow.selects]; rw [beq_iff_eq]; exact commandWord_opc ign 0b000#3⟩

theorem cmdHash8 (ign : BitVec 29) : Statement (.cmdHash8 ign) := fun _ =>
  ⟨⟨"CMD_HASH8", 0x00000001, 0x00000007⟩, by simp [commandRows], rfl, by
    simp only [OpRow.selects]; rw [beq_iff_eq]; exact commandWord_opc ign 0b001#3⟩

theorem cmdHash64 (ign : BitVec 29) : Statement (.cmdHash64 ign) := fun _ =>
  ⟨⟨"CMD_HASH64", 0x00000002, 0x00000007⟩, by simp [commandRows], rfl, by
    simp only [OpRow.selects]; rw [beq_iff_eq]; exact commandWord_opc ign 0b010#3⟩

theorem cmdClear (ign : BitVec 29) : Statement (.cmdClear ign) := fun _ =>
  ⟨⟨"CMD_CLEAR", 0x00000003, 0x00000007⟩, by simp [commandRows], rfl, by
    simp only [OpRow.selects]; rw [beq_iff_eq]; exact commandWord_opc ign 0b011#3⟩

theorem cmdReserved (code : BitVec 3) (ign : BitVec 29) : Statement (.cmdReserved code ign) := fun h =>
  ⟨⟨"CMD_RESERVED", 0x00000004, 0x00000004⟩, by simp [commandRows], rfl, by
    simp only [OpRow.selects]; rw [beq_iff_eq]
    refine (commandWord_bit2 ign code).trans ?_
    rw [show code.getLsbD 2 = true from h]; rfl⟩

/-- The access code of a row selects that row, whatever haddr[1:0] is (spec/30_encoding.md R90, R91). -/
theorem accessCode_selects (we : Bool) (off : BitVec 3) (low : BitVec 2) :
    accessCode we off low &&& 0x3C#6 = BitVec.ofBool we ++ off ++ 0b00#2 := by
  revert we off low; decide

theorem rdCtrl (low : BitVec 2) : Statement (.rdCtrl low) := fun _ =>
  ⟨⟨"RD_CTRL", 0x00, 0x3C⟩, by simp [accessRows], rfl, beq_iff_eq.mpr (accessCode_selects false 0#3 low)⟩

theorem rdStatus (low : BitVec 2) : Statement (.rdStatus low) := fun _ =>
  ⟨⟨"RD_STATUS", 0x04, 0x3C⟩, by simp [accessRows], rfl, beq_iff_eq.mpr (accessCode_selects false 1#3 low)⟩

theorem rdBase (low : BitVec 2) : Statement (.rdBase low) := fun _ =>
  ⟨⟨"RD_BASE", 0x08, 0x3C⟩, by simp [accessRows], rfl, beq_iff_eq.mpr (accessCode_selects false 2#3 low)⟩

theorem rdLen (low : BitVec 2) : Statement (.rdLen low) := fun _ =>
  ⟨⟨"RD_LEN", 0x0C, 0x3C⟩, by simp [accessRows], rfl, beq_iff_eq.mpr (accessCode_selects false 3#3 low)⟩

theorem rdHash8 (low : BitVec 2) : Statement (.rdHash8 low) := fun _ =>
  ⟨⟨"RD_HASH8", 0x10, 0x3C⟩, by simp [accessRows], rfl, beq_iff_eq.mpr (accessCode_selects false 4#3 low)⟩

theorem rdHash64Lo (low : BitVec 2) : Statement (.rdHash64Lo low) := fun _ =>
  ⟨⟨"RD_HASH64_LO", 0x14, 0x3C⟩, by simp [accessRows], rfl, beq_iff_eq.mpr (accessCode_selects false 5#3 low)⟩

theorem rdHash64Hi (low : BitVec 2) : Statement (.rdHash64Hi low) := fun _ =>
  ⟨⟨"RD_HASH64_HI", 0x18, 0x3C⟩, by simp [accessRows], rfl, beq_iff_eq.mpr (accessCode_selects false 6#3 low)⟩

theorem rdRsvd (low : BitVec 2) : Statement (.rdRsvd low) := fun _ =>
  ⟨⟨"RD_RSVD", 0x1C, 0x3C⟩, by simp [accessRows], rfl, beq_iff_eq.mpr (accessCode_selects false 7#3 low)⟩

theorem wrCtrl (low : BitVec 2) (data : Word) : Statement (.wrCtrl low data) := fun _ =>
  ⟨⟨"WR_CTRL", 0x20, 0x3C⟩, by simp [accessRows], rfl, beq_iff_eq.mpr (accessCode_selects true 0#3 low)⟩

theorem wrStatus (low : BitVec 2) (data : Word) : Statement (.wrStatus low data) := fun _ =>
  ⟨⟨"WR_STATUS", 0x24, 0x3C⟩, by simp [accessRows], rfl, beq_iff_eq.mpr (accessCode_selects true 1#3 low)⟩

theorem wrBase (low : BitVec 2) (data : Word) : Statement (.wrBase low data) := fun _ =>
  ⟨⟨"WR_BASE", 0x28, 0x3C⟩, by simp [accessRows], rfl, beq_iff_eq.mpr (accessCode_selects true 2#3 low)⟩

theorem wrLen (low : BitVec 2) (data : Word) : Statement (.wrLen low data) := fun _ =>
  ⟨⟨"WR_LEN", 0x2C, 0x3C⟩, by simp [accessRows], rfl, beq_iff_eq.mpr (accessCode_selects true 3#3 low)⟩

theorem wrHash8 (low : BitVec 2) (data : Word) : Statement (.wrHash8 low data) := fun _ =>
  ⟨⟨"WR_HASH8", 0x30, 0x3C⟩, by simp [accessRows], rfl, beq_iff_eq.mpr (accessCode_selects true 4#3 low)⟩

theorem wrHash64Lo (low : BitVec 2) (data : Word) : Statement (.wrHash64Lo low data) := fun _ =>
  ⟨⟨"WR_HASH64_LO", 0x34, 0x3C⟩, by simp [accessRows], rfl, beq_iff_eq.mpr (accessCode_selects true 5#3 low)⟩

theorem wrHash64Hi (low : BitVec 2) (data : Word) : Statement (.wrHash64Hi low data) := fun _ =>
  ⟨⟨"WR_HASH64_HI", 0x38, 0x3C⟩, by simp [accessRows], rfl, beq_iff_eq.mpr (accessCode_selects true 6#3 low)⟩

theorem wrRsvd (low : BitVec 2) (data : Word) : Statement (.wrRsvd low data) := fun _ =>
  ⟨⟨"WR_RSVD", 0x3C, 0x3C⟩, by simp [accessRows], rfl, beq_iff_eq.mpr (accessCode_selects true 7#3 low)⟩

end RowMatch

end Sys2Proof.Laws
end

