-- ==== Sys2Proof/Laws/Step.lean ====
section
/-! SUPPORT. What one clock cycle can do. -/

namespace Sys2Proof.Machine

/-- A step is a reset cycle, or a host access (or none) followed by the platform's writes and, if an operation was running,
the engine (spec/70_reset_and_hazards.md R261, R273). -/
theorem step_cases {s t : State} (h : step s = .next t) :
    (s.nextCycle.rst = true ∧ t = s.popInput.resetCycle s.nextCycle) ∨
    (s.nextCycle.rst = false ∧ ∃ u,
      ((s.nextCycle.host = none ∧ u = s.popInput) ∨
        ∃ item, s.nextCycle.host = some item ∧ exec (decode item) s.popInput = .next u) ∧
      t = u.afterHost s.busy s.nextCycle) := by
  unfold step runCycle at h
  cases hr : s.nextCycle.rst with
  | true =>
    simp only [hr, if_true] at h
    injection h with h
    exact .inl ⟨rfl, h.symm⟩
  | false =>
    simp only [hr, Bool.false_eq_true, if_false] at h
    refine .inr ⟨rfl, ?_⟩
    cases hh : s.nextCycle.host with
    | none =>
      simp only [hh] at h
      injection h with h
      exact ⟨s.popInput, .inl ⟨rfl, rfl⟩, h.symm⟩
    | some item =>
      simp only [hh] at h
      cases he : exec (decode item) s.popInput with
      | next u =>
        simp only [he] at h
        injection h with h
        exact ⟨u, .inr ⟨item, rfl, he⟩, h.symm⟩
      | fault r => simp only [he] at h; cases h
      | refused r => simp only [he] at h; cases h

/-- The state a reset cycle leaves (spec/70_reset_and_hazards.md R261). -/
theorem State.resetCycle_eq (s : State) (c : Cycle) :
    ∃ m w, s.resetCycle c = { s.coreReset with mem := m, hrdata := w } := by
  obtain ⟨m, d, h⟩ := State.platformStores_eq s.coreReset c.stores
  have hd := State.platformStores_idle s.coreReset c.stores rfl
  rw [h] at hd
  simp only at hd
  unfold State.resetCycle
  simp only [h]
  subst hd
  split
  · exact ⟨m, 0#32, rfl⟩
  · exact ⟨m, s.hrdata, rfl⟩

end Sys2Proof.Machine
end

