-- ==== Sys2Proof/Machine/HostCommands.lean ====
section
/-! DEFINITION. The host command language (spec/30_encoding.md R98–R100): register names, command names and
pseudo-commands, expanded into the accesses they make. The host's own control flow, such as the loop inside WAIT, is host
code (R100): a WAIT is given by how many STATUS reads it made (log entry 20). -/

namespace Sys2Proof.Machine

/-- The register names of R98. -/
inductive HostReg where
  | ctrl | status | base | len | hash8 | hash64Lo | hash64Hi | rsvd
  deriving DecidableEq, Repr

/-- The word offset OFF of a register (R91). -/
def HostReg.off : HostReg → BitVec 3
  | .ctrl => 0#3
  | .status => 1#3
  | .base => 2#3
  | .len => 3#3
  | .hash8 => 4#3
  | .hash64Lo => 5#3
  | .hash64Hi => 6#3
  | .rsvd => 7#3

/-- The command names of R93. -/
inductive CommandName where
  | nop | hash8 | hash64 | clear
  deriving DecidableEq, Repr

/-- The command word a name stands for (R99). -/
def CommandName.word : CommandName → Word
  | .nop => 0#32
  | .hash8 => 1#32
  | .hash64 => 2#32
  | .clear => 3#32

/-- A line of a host program (R98, R99). -/
inductive HostLine where
  /-- `WR <reg>, <value>`. -/
  | wr (reg : HostReg) (value : Word)
  /-- `WR <numeric byte offset 0x00–0x1F>, <value>`. -/
  | wrAt (haddr : BitVec 5) (value : Word)
  /-- `RD <reg> -> <var>`. -/
  | rd (reg : HostReg)
  /-- `RD <numeric byte offset 0x00–0x1F> -> <var>`. -/
  | rdAt (haddr : BitVec 5)
  /-- `CMD <name>`. -/
  | cmd (name : CommandName)
  /-- `WAIT -> <var>`, which made `polls + 1` STATUS reads ("at least one"). -/
  | wait (polls : Nat)
  /-- `RD64 -> <var>`. -/
  | rd64
  /-- `HASH8 <base>, <len> -> <var>`. -/
  | hash8 (base len : Word) (polls : Nat)
  /-- `HASH64 <base>, <len> -> <var>`. -/
  | hash64 (base len : Word) (polls : Nat)
  deriving DecidableEq, Repr

/-- `WR` as an access (R98). -/
def wrItem (reg : HostReg) (value : Word) : HostItem := writeAt reg.off 0#2 value

/-- `RD` as an access (R98). -/
def rdItem (reg : HostReg) : HostItem := readAt reg.off 0#2

/-- `WAIT`: STATUS reads, at least one (R99). -/
def waitItems (polls : Nat) : List HostItem := List.replicate (polls + 1) (rdItem .status)

/-- The accesses of a line, in order (R98, R99). -/
def HostLine.expand : HostLine → List HostItem
  | .wr reg value => [wrItem reg value]
  | .wrAt haddr value => [.access (BitVec.ofBool true ++ haddr) value]
  | .rd reg => [rdItem reg]
  | .rdAt haddr => [.access (BitVec.ofBool false ++ haddr) 0#32]
  | .cmd name => [.command name.word]
  | .wait polls => waitItems polls
  | .rd64 => [rdItem .hash64Lo, rdItem .hash64Hi]
  | .hash8 base len polls =>
    [wrItem .base base, wrItem .len len, .command CommandName.hash8.word] ++ waitItems polls ++ [rdItem .hash8]
  | .hash64 base len polls =>
    [wrItem .base base, wrItem .len len, .command CommandName.hash64.word] ++ waitItems polls
      ++ [rdItem .hash64Lo, rdItem .hash64Hi]

/-- Does WAIT end with this STATUS word: bit 0 is 0 (R99)? -/
def waitEnds (status : Word) : Bool := !status.getLsbD 0

/-- The value RD64 puts together from its two reads: `{hi, lo}` (R99). -/
def rd64Value (lo hi : Word) : Dword := hi ++ lo

/-- The input cycles of a host program whose accesses come in consecutive cycles, the memory answering at once. -/
def programCycles (lines : List HostLine) : List Cycle :=
  (lines.flatMap HostLine.expand).map fun item => { host := some item, ack := true }

/-- The start-state directive `MEM <addr>: <byte>, <byte>, …`: bytes placed in message memory before the program runs
(R98), as one cycle of platform writes. -/
def memDirective (addr : Word) (bytes : List Byte) : Cycle :=
  { stores := bytes.zipIdx.map fun (b, i) => (addr + BitVec.ofNat 32 i, b) }

end Sys2Proof.Machine
end

