-- ==== Sys2Proof/Tests/Slice0.lean ====
section
/-! SUPPORT. The model's own tests: the check of WellFormed refuses, the words of spec/30_encoding.md decode, one step of
each instruction, vectors of spec/95_test_vectors.md, and for each statement with hypotheses a state that meets them. -/

namespace Sys2Proof.Machine.Tests

/-! ### WellFormed and decoding: words written out from spec/30_encoding.md R90–R93 -/

theorem test_reserved_code_below_four_is_ill_formed : (Instr.cmdReserved 0b011#3 0#29).wellFormed = false := by decide
theorem test_reserved_code_four_is_well_formed : (Instr.cmdReserved 0b100#3 0#29).wellFormed = true := by decide

theorem test_decode_cmd_nop : decodeTableWord 32 0xFFFFFFF8 = some (.cmdNop 0x1FFFFFFF#29) := by decide
theorem test_decode_cmd_hash8 : decodeTableWord 32 0x00000001 = some (.cmdHash8 0#29) := by decide
theorem test_decode_cmd_hash64 : decodeTableWord 32 0x0000000A = some (.cmdHash64 1#29) := by decide
theorem test_decode_cmd_clear : decodeTableWord 32 0x00000003 = some (.cmdClear 0#29) := by decide
theorem test_decode_cmd_reserved : decodeTableWord 32 0x80000004 = some (.cmdReserved 4#3 0x10000000#29) := by decide
theorem test_decode_rd_ctrl : decodeTableWord 8 0b000000 = some (.rdCtrl 0#2) := by decide
theorem test_decode_rd_status : decodeTableWord 8 0b000101 = some (.rdStatus 1#2) := by decide
theorem test_decode_rd_base : decodeTableWord 8 0b001000 = some (.rdBase 0#2) := by decide
theorem test_decode_rd_len : decodeTableWord 8 0b001100 = some (.rdLen 0#2) := by decide
theorem test_decode_rd_hash8 : decodeTableWord 8 0b010000 = some (.rdHash8 0#2) := by decide
theorem test_decode_rd_hash64_lo : decodeTableWord 8 0b010100 = some (.rdHash64Lo 0#2) := by decide
theorem test_decode_rd_hash64_hi : decodeTableWord 8 0b011010 = some (.rdHash64Hi 2#2) := by decide
theorem test_decode_rd_rsvd : decodeTableWord 8 0b011100 = some (.rdRsvd 0#2) := by decide
theorem test_decode_wr_ctrl : decodeTableWord 40 0x0000000220 = some (.wrCtrl 0#2 2#32) := by decide
theorem test_decode_wr_status : decodeTableWord 8 0b100100 = some (.wrStatus 0#2 0#32) := by decide
theorem test_decode_wr_base : decodeTableWord 40 0x0000010028 = some (.wrBase 0#2 0x100#32) := by decide
theorem test_decode_wr_len : decodeTableWord 8 0b101111 = some (.wrLen 3#2 0#32) := by decide
theorem test_decode_wr_hash8 : decodeTableWord 8 0b110000 = some (.wrHash8 0#2 0#32) := by decide
theorem test_decode_wr_hash64_lo : decodeTableWord 8 0b110100 = some (.wrHash64Lo 0#2 0#32) := by decide
theorem test_decode_wr_hash64_hi : decodeTableWord 8 0b111000 = some (.wrHash64Hi 0#2 0#32) := by decide
theorem test_decode_wr_rsvd : decodeTableWord 8 0b111100 = some (.wrRsvd 0#2 0#32) := by decide
theorem test_seven_bit_access_code_is_refused : itemOfWord 8 0x40 = .error (.accessCodeTooWide 0x40) := rfl
theorem test_wide_command_is_refused : itemOfWord 32 (2 ^ 32) = .error (.commandWordTooWide (2 ^ 32)) := rfl
theorem test_sixteen_bits_are_no_format : itemOfWord 16 0 = .error (.noFormatOfWidth 16) := rfl
/-- spec/30_encoding.md R99: `CMD CLEAR` is `W 0x00 0x00000003`, `RD64` is `R 0x14`, `R 0x18`. -/
theorem test_pseudo_commands : (HostLine.cmd .clear).expand.map HostItem.onWires = [.access 0b100000#6 3#32] ∧
    HostLine.rd64.expand = [.access 0b010100#6 0#32, .access 0b011000#6 0#32] := by decide

/-! ### States -/

/-- A small machine: AW = 8, LW = 4, message [0x00, 0x62] at 0x10, idle. -/
def idle (e : Engines) (t : Table) : State :=
  { State.resetWith { aw := 8, lw := 4, engines := e, table := t } with base := 0x10#32, len := 2#32, mem := [(0x11, 0x62#8)] }

/-- The identity table TID of spec/95_test_vectors.md. -/
def tid : Table := .ofEntries id

/-- A running HASH8 before its last byte: ACC = T[0x00] = 0x62, IDX = 1. -/
def busy8 : State := { idle .one .repository with op := .h8, idx := 1#32, accv := Vector.replicate 8 0#8 |>.set 0 0x62#8 }

/-- A running sequential HASH64 over one byte, at iteration `k`, before its only step. -/
def busy64 (k : BitVec 3) (l : Dword) : State := { idle .one tid with op := .h64, len := 1#32, iter := k, lanes := l }

/-- A running parallel HASH64 over one byte. -/
def busyPar : State := { idle .eight tid with op := .h64, len := 1#32 }

/-- An input cycle with a host access, the memory answering. -/
def access (item : HostItem) : Cycle := { host := some item, ack := true }

/-- `s` with inputs. -/
def feed (s : State) (cs : List Cycle) : State := { s with inputs := cs }

/-- Does the outcome answer a next state with `p`? -/
def next (o : Host.Outcome State Fault Refusal) (p : State → Bool) : Bool :=
  match o with
  | .next t => p t
  | .fault _ | .refused _ => false

/-! ### One step of each instruction (spec/43_control.md's examples and spec/95_test_vectors.md section 2.4) -/

theorem test_reserved_sets_err_cmd :
    next (exec (.cmdReserved 5#3 0#29) State.reset) (·.statusWord == 0x00000008#32) := by decide
theorem test_reserved_while_busy :
    next (exec (.wrCtrl 0#2 7#32) busy8) (·.statusWord == 0x00000009#32) := by decide
theorem test_nop_while_busy : next (exec (.cmdNop 0#29) busy8) (·.statusWord == 0x00000001#32) := by decide
theorem test_clear :
    next (exec (.cmdClear 0#29) { State.reset with done := true, errEmpty := true, errBusy := true })
      (·.statusWord == 0x00000000#32) := by decide
theorem test_hash64_of_nothing :
    next (exec (.cmdHash64 0#29) State.reset) (fun t => t.statusWord == 0x00000006#32 && t.hash64 == 0#64) := by decide
theorem test_hash8_of_nothing_clears_err_empty_only :
    next (exec (.cmdHash8 0#29) { State.reset with hash8 := 9#8, done := true, errEmpty := true, errCmd := true })
      (fun t => t.statusWord == 0x0000000A#32 && t.hash8 == 0#8) := by decide
theorem test_hash8_while_busy : next (exec (.cmdHash8 0#29) busy8) (·.statusWord == 0x00000011#32) := by decide
theorem test_len_write_while_busy :
    next (exec (.wrLen 0#2 9#32) busy8) (fun t => t.statusWord == 0x00000011#32 && t.len == 2#32) := by decide
theorem test_len_write_keeps_lw_bits :
    next (exec (.wrLen 0#2 0x12345#32) { State.reset with cfg := { Config.default with lw := 16 } })
      (·.len == 0x2345#32) := by decide
theorem test_base_write_keeps_aw_bits :
    next (exec (.wrBase 0#2 0x1234#32) (idle .one tid)) (·.base == 0x34#32) := by decide
theorem test_ctrl_write_starts_hash64 :
    next (exec (.wrCtrl 0#2 2#32) (idle .one tid)) (fun t => t.statusWord == 0x00000001#32 && t.op == .h64) := by decide
theorem test_status_of_the_parallel_core :
    next (exec (.rdStatus 0#2) { idle .eight tid with done := true }) (·.hrdata == 0x00000102#32) := by decide
theorem test_read_hash64_lo :
    next (exec (.rdHash64Lo 0#2) { State.reset with hash64 := 0x0706050403020100#64 }) (·.hrdata == 0x03020100#32) := by decide
theorem test_read_hash64_hi :
    next (exec (.rdHash64Hi 0#2) { State.reset with hash64 := 0x0706050403020100#64 }) (·.hrdata == 0x07060504#32) := by decide
theorem test_read_hash8 :
    next (exec (.rdHash8 0#2) { State.reset with hash8 := 0xD0#8 }) (·.hrdata == 0x000000D0#32) := by decide
theorem test_read_base_and_len :
    next (exec (.rdBase 0#2) busy8) (·.hrdata == 0x10#32) && next (exec (.rdLen 0#2) busy8) (·.hrdata == 2#32) := by decide
theorem test_read_ctrl_and_rsvd :
    next (exec (.rdCtrl 0#2) { busy8 with hrdata := 5#32 }) (·.hrdata == 0#32) &&
    next (exec (.rdRsvd 0#2) { busy8 with hrdata := 5#32 }) (·.hrdata == 0#32) := by decide
theorem test_read_only_writes :
    next (exec (.wrHash8 0#2 0xFF#32) State.reset) (·.hash8 == 0#8) &&
    next (exec (.wrStatus 0#2 0xFFFFFFFF#32) State.reset) (·.statusWord == 0#32) &&
    next (exec (.wrHash64Lo 0#2 0xFF#32) State.reset) (·.hash64 == 0#64) &&
    next (exec (.wrHash64Hi 0#2 0xFF#32) State.reset) (·.hash64 == 0#64) &&
    next (exec (.wrRsvd 0#2 0xFF#32) State.reset) (·.statusWord == 0#32) := by decide

/-! ### The hash functions and the engine (spec/95_test_vectors.md sections 2.2, 2.3 and 2.4) -/

theorem test_byte_hash_default : byteHash [0x61#8, 0xD0#8, 0x62#8, 0x03#8] .repository = 0xD0#8 := by decide
theorem test_byte_hash_identity : byteHash [0x41#8, 0x42#8, 0x43#8] tid = 0x40#8 := by decide +kernel
theorem test_hash64_identity : hash64 [0x12#8, 0x34#8] tid = 0x2D2C232221202726#64 := by decide +kernel
theorem test_hash64_wraps : hash64 [0xFE#8] tid = 0x050403020100FFFE#64 := by decide +kernel
/-- [0x00, 0x62] under the default table: the last step gives T[0x62 XOR 0x62] = 0x62 (section 2.2). -/
theorem test_last_byte_finishes_hash8 :
    next (step (feed busy8 [{ ack := true }])) (fun t => t.hash8 == 0x62#8 && t.statusWord == 0x00000002#32) := by decide
theorem test_clear_loses_to_finish :
    next (step (feed busy8 [access (.command 3#32)])) (·.statusWord == 0x00000002#32) := by decide
theorem test_start_in_the_finish_cycle_is_refused :
    next (step (feed busy8 [access (.command 1#32)])) (·.statusWord == 0x00000012#32) := by decide
theorem test_no_answer_no_step :
    next (step (feed busy8 [{}])) (fun t => t.rdpend && t.idx == 1#32 && t.busy) := by decide
theorem test_steered_lane :
    next (step (feed { busy64 7#3 0#64 with fb := 0xFE#8 } [{}])) (·.hash64 == 0x0500000000000000#64) := by decide +kernel
theorem test_parallel_step :
    next (step (feed { busyPar with mem := [(0x10, 0xFF#8)] } [{ ack := true }])) (·.hash64 == 0x06050403020100FF#64) := by decide +kernel
theorem test_reset_aborts :
    next (step (feed busy8 [{ rst := true, host := some (.access 0b101100#6 5#32) }]))
      (fun t => t.statusWord == 0#32 && t.len == 0#32 && t.mem == [(0x11, 0x62#8)]) := by decide
/-- AW = 8, BASE = 0xFF: byte 1 is at 0x00 (section 2.2, address wrap). -/
theorem test_address_wraps : ({ idle .one tid with base := 0xFF#32 }).msgAddr 1 = 0#32 := by decide
theorem test_presented_word_runs :
    next (step (State.reset.withFetchWord 32 0x00000002)) (·.statusWord == 0x00000006#32) := by decide

/-! ### Witnesses: a state that meets each statement's hypotheses -/

/-- `State.Wf`, computed. -/
def checkWf (s : State) : Bool :=
  s.cfg.legal && decide (s.base.toNat < 2 ^ s.cfg.aw) && decide (s.len.toNat < 2 ^ s.cfg.lw) &&
  decide (s.idx.toNat < 2 ^ s.cfg.lw) && (!s.busy || decide (s.idx.toNat < s.len.toNat)) && (!s.busy || !s.done) &&
  (!s.errEmpty || s.done) && (!s.rdpend || s.readNeeded) &&
  (s.cfg.engines == .eight || (List.range 8).all fun k => k == 0 || s.accv[k]? == some 0#8) &&
  (s.cfg.engines == .one || (s.lanes == 0#64 && s.iter == 0#3)) && s.mem.wf && s.mem.within (2 ^ s.cfg.aw)

theorem wf_of_check (s : State) (h : checkWf s = true) : s.Wf := by
  simp only [checkWf, Bool.and_eq_true, Bool.or_eq_true, Bool.not_eq_true', decide_eq_true_eq, List.all_eq_true,
    List.mem_range, beq_iff_eq] at h
  obtain ⟨⟨⟨⟨⟨⟨⟨⟨⟨⟨⟨h1, h2⟩, h3⟩, h4⟩, h5⟩, h6⟩, h7⟩, h8⟩, h9⟩, h10⟩, h11⟩, h12⟩ := h
  refine ⟨h1, h2, h3, h4, ?_, ?_, ?_, ?_, ?_, ?_, h11, h12⟩
  · intro hb; simpa [hb] using h5
  · intro hb; simpa [hb] using h6
  · intro hb; simpa [hb] using h7
  · intro hb; simpa [hb] using h8
  · intro he k hk h0
    rcases h9 with h9 | h9
    · rw [he] at h9; cases h9
    · rcases h9 k hk with h | h
      · omega
      · simpa [hk] using h
  · intro he; rcases h10 with h10 | h10
    · rw [he] at h10; cases h10
    · exact h10

/-- The start of an operation: the idle state, a start command, then `n` prompt cycles with STATUS reads. -/
def starting (e : Engines) (word : Word) (n : Nat) : State :=
  feed (idle e tid) (access (.command word) :: List.replicate n (access (readAt 1#3 0#2)))

/-- The start of an operation over one byte, then `n` cycles in which the memory answers and another agent writes behind
the message. -/
def oneByte (e : Engines) (word : Word) (n : Nat) : State :=
  { idle e tid with
    len := 1#32, inputs := access (.command word) :: List.replicate n { ack := true, stores := [(0x30#32, 1#8)] } }

/-- `State.LeavesMessage`, computed. -/
def checkLeaves (s : State) (c : Cycle) : Bool := (List.range s.len.toNat).all fun i => !s.storesTo c (s.msgAddr i).toNat

theorem leaves_of_check (s : State) (c : Cycle) (h : checkLeaves s c = true) : s.LeavesMessage c := by
  simp only [checkLeaves, List.all_eq_true, List.mem_range, Bool.not_eq_true'] at h
  exact h

theorem duty_of_check (s : State) (k : Nat) (h : (s.inputs.take (k + 1)).all (checkLeaves s) = true) : s.KeepsDuty k :=
  fun c hc => leaves_of_check s c (List.all_eq_true.1 h c hc)

theorem intact_of_check (s : State)
    (h : ((List.range s.len.toNat).all fun i => !s.disturbed.contains (s.msgAddr i).toNat) = true) : s.MessageIntact := by
  simp only [List.all_eq_true, List.mem_range, Bool.not_eq_true', List.contains_eq_mem, decide_eq_false_iff_not] at h
  exact h

/-- `OperationRun` without its end, computed. -/
def checkRun (p : HostItem → Bool) (k : Nat) (s : State) : Bool :=
  s.acceptsIn s.nextCycle && s.nextCycle.hostIs p && s.len != 0#32 && (s.inputs.take (k + 1)).all (!·.rst) &&
  (List.range (k + 1)).all fun j => j == 0 || (runs j s).all State.busy

theorem run_of_check (p : HostItem → Bool) (k : Nat) (s t : State) (h : checkRun p k s = true)
    (ht : runs (k + 1) s = some t) : OperationRun p k s t := by
  simp only [checkRun, Bool.and_eq_true, bne_iff_ne, List.all_eq_true, List.mem_range, Bool.or_eq_true, beq_iff_eq,
    Bool.not_eq_true'] at h
  obtain ⟨⟨⟨⟨h1, h2⟩, h3⟩, h4⟩, h5⟩ := h
  refine ⟨h1, h2, h3, h4, fun j u hj hk hu => ?_, ht⟩
  rcases h5 j (by omega) with h | h
  · omega
  · simpa [hu] using h

theorem ended_of_check (p : HostItem → Bool) (k : Nat) (s : State)
    (h : (checkRun p k s && (runs (k + 1) s).any (!·.busy)) = true) : ∃ t, OperationRun p k s t ∧ t.busy = false := by
  simp only [Bool.and_eq_true, Option.any_eq_true, Bool.not_eq_true'] at h
  obtain ⟨h1, t, h2, h3⟩ := h
  exact ⟨t, run_of_check p k s t h1 h2, h3⟩

theorem witness_DecodeInvertsEncode : (Instr.cmdReserved 0b111#3 0x1FFFFFFF#29).wellFormed = true := by decide
theorem witness_CommandWordSelectsItsRow : ∃ r ∈ commandRows, 0xFFFFFFFC#32 &&& r.mask = r.pattern := by decide
theorem witness_IgnoredCommandBitsChangeNothing :
    (0x00000001#32).extractLsb' 0 3 = (0xFFFFFFF9#32).extractLsb' 0 3 := by decide
theorem witness_IgnoredAddressBitsChangeNothing : (0b000100#6).extractLsb' 2 4 = (0b000111#6).extractLsb' 2 4 := by decide
theorem witness_ReadBaseAndLenReturnTheOperands : busy8.Wf ∧ busy8.cfg.aw ≤ 8 ∧ busy8.cfg.lw ≤ 4 :=
  ⟨wf_of_check _ (by decide), by decide, by decide⟩
theorem witness_HostReadsSeeTheStartOfTheCycle :
    (0b000100#6).getLsbD 5 = false ∧ (feed busy8 [access (.access 0b000100#6 0#32)]).nextCycle.rst = false ∧
    (feed busy8 [access (.access 0b000100#6 0#32)]).nextCycle.host = some (.access 0b000100#6 0#32) := by decide
theorem witness_WriteBaseAndLenWhileIdle : State.reset.op = .none := rfl
theorem witness_WriteBaseAndLenWhileBusy : busy8.op ≠ .none := by decide
theorem witness_CtrlWriteRunsItsCommand :
    (0xFFFFFFF8#32).extractLsb' 0 3 = 0#3 ∧ (1#32).extractLsb' 0 3 = 1#3 ∧ (2#32).extractLsb' 0 3 = 2#3 ∧
    (3#32).extractLsb' 0 3 = 3#3 ∧ (4#32).getLsbD 2 = true ∧ (7#32).getLsbD 2 = true := by decide
theorem witness_ClearClearsTheFlags :
    ∃ t, step (feed { busy8 with errCmd := true, errBusy := true } [access (.command 3#32)]) = .next t ∧
      t.errCmd = false ∧ t.errBusy = false := ⟨_, rfl, by decide, by decide⟩
theorem witness_ReservedCommandRaisesErrCmdOnly : (5#32).getLsbD 2 = true := by decide
theorem witness_StartWhileBusyIsRefused : busy8.op ≠ .none := by decide
theorem witness_Hash8CommandEffect :
    busy8.op ≠ .none ∧ State.reset.op = .none ∧ State.reset.len = 0#32 ∧ (idle .one tid).op = .none ∧
    (idle .one tid).len ≠ 0#32 := by decide
theorem witness_Hash64CommandEffect :
    busy8.op ≠ .none ∧ State.reset.op = .none ∧ State.reset.len = 0#32 ∧ (idle .one tid).op = .none ∧
    (idle .one tid).len ≠ 0#32 ∧ (idle .eight tid).op = .none ∧ (idle .eight tid).len ≠ 0#32 := by decide
theorem witness_OneAccessRaisesAtMostOneFlag :
    ∃ t, exec (decode (.command 2#32)) State.reset = .next t ∧ State.reset.flag .empty = false ∧ t.flag .empty = true ∧
    ∃ u v, exec (decode (.command 5#32)) busy8 = .next u ∧ isReserved (.command 5#32) = true ∧ busy8.op ≠ .none ∧
      exec (decode (.command 2#32)) busy8 = .next v ∧ isHash64 (.command 2#32) = true :=
  ⟨_, rfl, by decide, by decide, _, _, rfl, by decide, by decide, rfl, by decide⟩
theorem witness_BusyFlagLaw : ∃ t, step (starting .one 1#32 0) = .next t ∧ t.busy = true := ⟨_, rfl, by decide⟩
theorem witness_DoneFlagLaw :
    ∃ t, step (starting .one 1#32 0) = .next t ∧ (starting .one 1#32 0).Wf ∧ t.busy = true :=
  ⟨_, rfl, wf_of_check _ (by decide), by decide⟩
theorem witness_ErrEmptyFlagLaw :
    ∃ t, step (feed State.reset [access (.command 2#32)]) = .next t ∧ t.errEmpty = true := ⟨_, rfl, by decide⟩
theorem witness_ErrCmdFlagLaw :
    ∃ t, step (feed State.reset [access (.command 4#32)]) = .next t ∧ t.errCmd = true := ⟨_, rfl, by decide⟩
theorem witness_ErrBusyFlagLaw :
    ∃ t, step (feed busy8 [{ host := some (.access 0b101000#6 0#32) }]) = .next t ∧ t.errBusy = true := ⟨_, rfl, by decide⟩
theorem witness_StepRunsTheDecodedInstruction :
    (starting .one 1#32 0).nextCycle.rst = false ∧ (starting .one 1#32 0).nextCycle.host = some (.command 1#32) ∧
    (∃ t, exec (decode (.command 1#32)) (starting .one 1#32 0).popInput = .next t) ∧
    decodeTableWord 8 0x3F = some (.wrRsvd 3#2 0#32) := ⟨by decide, by decide, ⟨_, rfl⟩, by decide⟩
theorem witness_ResetCycleResetsTheCore :
    (feed busy8 [{ rst := true, host := some (.access 0b000100#6 0#32) }]).nextCycle.rst = true ∧
    (feed busy8 [{ rst := true }]).nextCycle.stores = [] := by decide
theorem witness_CoreNeverWritesTheMessageMemory :
    busy8.mem.wf = true ∧ ∃ t, step (feed busy8 [{ stores := [(0x12#32, 1#8)] }]) = .next t ∧
      ∀ w ∈ (feed busy8 [{ stores := [(0x12#32, 1#8)] }]).nextCycle.stores, (keepLow busy8.cfg.aw w.1).toNat ≠ 0x11 :=
  ⟨by decide, _, rfl, fun w hw => by
    obtain rfl : w = (0x12#32, 1#8) := List.mem_singleton.1 hw
    decide⟩
theorem witness_ConfigurationNeverChanges : ∃ t, step busy8 = .next t := ⟨_, rfl⟩
theorem witness_ResultsChangeOnlyAtCompletion :
    (∃ t, step (feed busy8 [{ ack := true }]) = .next t ∧ t.hash8 ≠ busy8.hash8) ∧
    (∃ t, step (feed { State.reset with hash8 := 7#8 } [access (.command 1#32)]) = .next t ∧ t.hash8 ≠ 7#8) ∧
    (∃ t, step (feed { busyPar with mem := [(0x10, 0xFF#8)] } [{ ack := true }]) = .next t ∧ t.hash64 ≠ busyPar.hash64) ∧
    ({ ack := true } : Cycle).rst = false ∧ (access (.command 1#32)).rst = false :=
  ⟨⟨_, rfl, by decide +kernel⟩, ⟨_, rfl, by decide +kernel⟩, ⟨_, rfl, by decide +kernel⟩, rfl, rfl⟩
theorem witness_MessageIsFixedWhileBusy :
    busy8.op ≠ .none ∧ (feed busy8 [access (.access 0b101100#6 9#32)]).nextCycle.rst = false ∧
    ∃ t, step (feed busy8 [access (.access 0b101100#6 9#32)]) = .next t := ⟨by decide, by decide, _, rfl⟩
theorem witness_ReadRequestIsHeldUntilAnswered :
    (busy8.mReq busy8.nextCycle = true ∧ busy8.nextCycle.ack = false ∧ ∃ t, step busy8 = .next t) ∧
    ((feed busy8 [{ ack := true }]).mReq (feed busy8 [{ ack := true }]).nextCycle = true ∧
      (feed busy8 [{ ack := true }]).nextCycle.ack = true ∧ ∃ t, step (feed busy8 [{ ack := true }]) = .next t) ∧
    (State.reset.mReq State.reset.nextCycle = false ∧ ∃ t, step State.reset = .next t) :=
  ⟨⟨by decide, by decide, _, rfl⟩, ⟨by decide, by decide, _, rfl⟩, ⟨by decide, _, rfl⟩⟩
/-- Before byte 0 of a HASH8, of a sequential and of a parallel HASH64 over two bytes. -/
theorem witness_EngineStepFoldsOneByte :
    ∀ s ∈ [feed { idle .one tid with op := .h8 } [{ ack := true }], feed { idle .one tid with op := .h64 } [{ ack := true }],
        feed { idle .eight tid with op := .h64 } [{ ack := true }]],
      s.Wf ∧ s.consumed s.nextCycle = some 0#8 ∧ s.lastByte = false ∧ ∃ t, step s = .next t := by
  intro s hs
  simp only [List.mem_cons, List.not_mem_nil, or_false] at hs
  rcases hs with rfl | rfl | rfl <;> exact ⟨wf_of_check _ (by decide), by decide, by decide, _, rfl⟩
theorem witness_IterationEndStoresItsLane :
    ∃ t, step (busy64 6#3 0#64) = .next t ∧ (busy64 6#3 0#64).consumed (busy64 6#3 0#64).nextCycle = some 6#8 ∧
      (busy64 6#3 0#64).op = .h64 ∧ (busy64 6#3 0#64).cfg.engines = .one ∧ (busy64 6#3 0#64).lastByte = true ∧
      (busy64 6#3 0#64).iter ≠ 7#3 := ⟨_, rfl, by decide, by decide, by decide, by decide, by decide⟩
theorem witness_FirstByteIsSteeredOnTheDatapath :
    (busy64 7#3 0#64).op = .h64 ∧ (busy64 7#3 0#64).cfg.engines = .one ∧ (busy64 7#3 0#64).idx = 0#32 ∧
    (busy64 7#3 0#64).iter ≠ 0#3 ∧ ({} : Cycle).rst = false ∧ ({} : Cycle).steerWait = false := by decide
/-- A read of a byte as memory has it, of one disturbed before, and of one written in the very cycle; and an acceptance. -/
theorem witness_ReadOfADisturbedByteIsADraw :
    (∀ s ∈ [feed busy8 [{ ack := true, stores := [(0x10#32, 1#8)] }],
        feed { busy8 with disturbed := [0x11] } [{ ack := true }],
        feed busy8 [{ ack := true, stores := [(0x111#32, 1#8)] }]],
      s.nextCycle.rst = false ∧ s.op ≠ .none ∧ s.mReq s.nextCycle = true ∧ s.nextCycle.ack = true ∧
      ∃ t, step s = .next t) ∧
    (let s := starting .one 1#32 0
     s.nextCycle.rst = false ∧ s.acceptsIn s.nextCycle = true ∧ s.len ≠ 0#32 ∧ ∃ t, step s = .next t) := by
  refine ⟨fun s hs => ?_, by decide, by decide, by decide, _, rfl⟩
  simp only [List.mem_cons, List.not_mem_nil, or_false] at hs
  rcases hs with rfl | rfl | rfl <;> exact ⟨by decide, by decide, by decide, by decide, _, rfl⟩
theorem test_a_write_in_the_cycle_of_the_read_makes_a_draw :
    (feed busy8 [{ ack := true, stores := [(0x111#32, 1#8)] }]).consumed { ack := true, stores := [(0x111#32, 1#8)] } =
      some (Config.drawnByte 0) := rfl
theorem witness_HostAccessInTheFinishCycle :
    ∀ item ∈ [HostItem.command 2#32, .command 3#32, .access 0b101000#6 0#32, readAt 1#3 3#2],
      (feed busy8 [access item]).finishesIn (access item) = true ∧ ∃ t, step (feed busy8 [access item]) = .next t := by
  intro item hi
  simp only [List.mem_cons, List.not_mem_nil, or_false] at hi
  rcases hi with rfl | rfl | rfl | rfl <;> exact ⟨by decide, _, rfl⟩
theorem witness_WellFormedStatesAreKept : busy8.Wf ∧ ∃ t, step busy8 = .next t := ⟨wf_of_check _ (by decide), _, rfl⟩
theorem witness_ResetIsWellFormed : Config.default.legal = true := by decide
/-- The premise `Progress` of the last step of the HASH8 of [0x00, 0x62]: ACC = byteHash [0x00] = 0x62. -/
theorem progress_busy8 (cs : List Cycle) : (feed busy8 cs).Progress := by
  intro _
  show (0x62#8 : Byte) = byteHash (busy8.message.take 1) .repository
  decide
theorem witness_ProgressIsKept :
    (feed busy8 []).Wf ∧ (feed busy8 []).Progress ∧ ∃ t, step (feed busy8 []) = .next t :=
  ⟨wf_of_check _ (by decide), progress_busy8 _, _, rfl⟩
/-- With a write of another agent behind the message in the finishing cycle, and one before it earlier. -/
theorem witness_Hash8ResultAtFinish :
    let s := { feed busy8 [{ ack := true, stores := [(0x12#32, 1#8)] }] with disturbed := [0x0F] }
    s.Wf ∧ s.Progress ∧ s.op = .h8 ∧ s.MessageIntact ∧ s.LeavesMessage s.nextCycle ∧
    s.finishesIn s.nextCycle = true ∧ ∃ t, step s = .next t :=
  ⟨wf_of_check _ (by decide), fun _ => progress_busy8 [] (fun _ _ => List.not_mem_nil), rfl,
    intact_of_check _ (by decide), leaves_of_check _ _ (by decide), by decide, _, rfl⟩
theorem witness_Hash64ResultAtFinish :
    (let s := feed busyPar [{ ack := true, stores := [(0x11#32, 1#8)] }]
     s.Wf ∧ s.Progress ∧ s.op = .h64 ∧ s.MessageIntact ∧ s.LeavesMessage s.nextCycle ∧
     s.finishesIn s.nextCycle = true ∧ ∃ t, step s = .next t) ∧
    (let s := { busy64 7#3 0x0006050403020100#64 with disturbed := [0x0F] }
     s.Wf ∧ s.Progress ∧ s.op = .h64 ∧ s.MessageIntact ∧ s.LeavesMessage s.nextCycle ∧
     s.finishesIn s.nextCycle = true ∧ ∃ t, step s = .next t) ∧
    (∀ x ∈ [(oneByte .one 2#32 8, 8), (oneByte .eight 2#32 1, 1)],
      x.1.Wf ∧ ∃ t, OperationRun isHash64 x.2 x.1 t ∧ t.busy = false) := by
  refine ⟨⟨wf_of_check _ (by decide), ?_, rfl, intact_of_check _ (by decide), leaves_of_check _ _ (by decide),
      by decide, _, rfl⟩,
    ⟨wf_of_check _ (by decide), ?_, rfl, intact_of_check _ (by decide), leaves_of_check _ _ (by decide),
      by decide, _, rfl⟩, fun x hx => ?_⟩
  · intro _
    show ∀ k (h : k < 8), (Vector.replicate 8 0#8)[k] = byteHash ((perturb busyPar.message k).take 0) tid
    intro k h
    simp [byteHash]
  · intro _
    show (_ → (busy64 7#3 0x0006050403020100#64).message.head? = some 0#8) ∧ 0#8 = byteHash (List.take 0 _) tid ∧
      ∀ k, k < 7 → laneOf 0x0006050403020100#64 k =
        byteHash (perturb (busy64 7#3 0x0006050403020100#64).message k) tid
    refine ⟨fun _ => by decide, rfl, ?_⟩
    decide +kernel
  · simp only [List.mem_cons, List.not_mem_nil, or_false] at hx
    rcases hx with rfl | rfl <;>
      exact ⟨wf_of_check _ (by decide), ended_of_check _ _ _ (by decide)⟩
theorem witness_Hash8RunsToItsResult :
    let s := starting .one 1#32 2
    s.Wf ∧ s.acceptsIn s.nextCycle = true ∧ s.nextCycle.hostIs isHash8 = true ∧ s.len ≠ 0#32 ∧ s.nextCycle.stores = [] ∧
    s.popInput.promptFor (stepCount .h8 s.cfg.engines s.len.toNat) = true :=
  ⟨wf_of_check _ (by decide), by decide, by decide, by decide, rfl, by decide⟩
theorem witness_Hash64RunsToItsResult :
    ∀ s ∈ [starting .one 2#32 16, starting .eight 2#32 2],
      s.Wf ∧ s.acceptsIn s.nextCycle = true ∧ s.nextCycle.hostIs isHash64 = true ∧ s.len ≠ 0#32 ∧
      s.nextCycle.stores = [] ∧ s.popInput.promptFor (stepCount .h64 s.cfg.engines s.len.toNat) = true := by
  intro s hs
  simp only [List.mem_cons, List.not_mem_nil, or_false] at hs
  rcases hs with rfl | rfl <;>
    exact ⟨wf_of_check _ (by decide), by decide, by decide, by decide, rfl, by decide⟩
theorem witness_SequentialAndParallelAgree :
    let s := oneByte .one 2#32 8
    let s' := oneByte .eight 2#32 1
    s.Wf ∧ s'.Wf ∧ s.cfg.engines = .one ∧ s'.cfg.engines = .eight ∧ s.cfg.table = s'.cfg.table ∧ s.message = s'.message ∧
    (∃ t, OperationRun isHash64 8 s t ∧ t.busy = false) ∧ (∃ t, OperationRun isHash64 1 s' t ∧ t.busy = false) ∧
    s.KeepsDuty 8 ∧ s'.KeepsDuty 1 :=
  ⟨wf_of_check _ (by decide), wf_of_check _ (by decide), rfl, rfl, rfl, by decide, ended_of_check _ _ _ (by decide),
    ended_of_check _ _ _ (by decide), duty_of_check _ _ (by decide), duty_of_check _ _ (by decide)⟩
theorem witness_SequentialAndParallelAgree_prompt :
    let s := starting .one 2#32 16
    let s' := starting .eight 2#32 2
    s.Wf ∧ s'.Wf ∧ s.cfg.engines = .one ∧ s'.cfg.engines = .eight ∧ s.cfg.table = s'.cfg.table ∧ s.message = s'.message ∧
    s.len ≠ 0#32 ∧ s.acceptsIn s.nextCycle = true ∧ s.nextCycle.hostIs isHash64 = true ∧ s.nextCycle.stores = [] ∧
    s'.acceptsIn s'.nextCycle = true ∧ s'.nextCycle.hostIs isHash64 = true ∧ s'.nextCycle.stores = [] ∧
    s.popInput.promptFor (8 * s.len.toNat) = true ∧ s'.popInput.promptFor s'.len.toNat = true :=
  ⟨wf_of_check _ (by decide), wf_of_check _ (by decide), rfl, rfl, rfl, by decide, by decide, by decide, by decide, rfl,
    by decide, by decide, rfl, by decide, by decide⟩
/-- Every clause: a finished HASH8, sequential and parallel HASH64, a HASH8 that waits for its byte, and LEN = 0. -/
theorem witness_MessageReadsAreInOrder :
    (oneByte .eight 1#32 1).Wf ∧ (∃ t, OperationRun isHash8 1 (oneByte .eight 1#32 1) t ∧ t.busy = false) ∧
    (∃ t, OperationRun isHash64 8 (oneByte .one 2#32 8) t ∧ t.busy = false) ∧
    (∃ t, OperationRun isHash64 1 (oneByte .eight 2#32 1) t ∧ t.busy = false) ∧
    (∃ t, OperationRun isHash8 3 (oneByte .one 1#32 0) t) ∧
    (let s := { starting .one 2#32 0 with len := 0#32 }
     s.acceptsIn s.nextCycle = true ∧ s.len = 0#32 ∧ ∃ t, step s = .next t) :=
  ⟨wf_of_check _ (by decide), ended_of_check _ _ _ (by decide), ended_of_check _ _ _ (by decide),
    ended_of_check _ _ _ (by decide), ⟨_, run_of_check _ _ _ _ (by decide) rfl⟩, by decide, rfl, _, rfl⟩
theorem witness_MessageReadsAreInOrder_prompt :
    ∀ x ∈ [(starting .one 1#32 2, isHash8, 2), (starting .one 2#32 16, isHash64, 16), (starting .eight 2#32 2, isHash64, 2)],
      x.1.Wf ∧ x.1.acceptsIn x.1.nextCycle = true ∧ x.1.len ≠ 0#32 ∧ x.1.nextCycle.stores = [] ∧
      x.1.nextCycle.hostIs x.2.1 = true ∧ x.1.popInput.promptFor x.2.2 = true := by
  intro x hx
  simp only [List.mem_cons, List.not_mem_nil, or_false] at hx
  rcases hx with rfl | rfl | rfl <;>
    exact ⟨wf_of_check _ (by decide), by decide, by decide, rfl, by decide, by decide⟩
theorem witness_Hash8FoldsTheBytesItRead :
    (oneByte .one 1#32 1).Wf ∧ (∃ t, OperationRun isHash8 1 (oneByte .one 1#32 1) t ∧ t.busy = false) ∧
    (oneByte .one 1#32 1).KeepsDuty 1 :=
  ⟨wf_of_check _ (by decide), ended_of_check _ _ _ (by decide), duty_of_check _ _ (by decide)⟩
theorem witness_MessageAddressesWrapAndAreDistinct : busy8.Wf ∧ 0 < busy8.len.toNat ∧ 1 < busy8.len.toNat :=
  ⟨wf_of_check _ (by decide), by decide, by decide⟩
theorem witness_MemoryReadAfterWrite : Memory.wf [(0x11, 0x62#8)] = true := by decide
theorem witness_HiddenStateIsNotObservable :
    busy8.view = ({ busy8 with idx := 0#32, fb := 3#8, rdpend := true }).view ∧ (0b010000#6).getLsbD 5 = false ∧
    (∃ t, exec (decode (.access 0b010000#6 0#32)) busy8 = .next t) ∧
    ∃ t, exec (decode (.access 0b010000#6 0#32)) { busy8 with idx := 0#32, fb := 3#8, rdpend := true } = .next t :=
  ⟨by decide, by decide, ⟨_, rfl⟩, ⟨_, rfl⟩⟩

end Sys2Proof.Machine.Tests
end

section
/-! SUPPORT. The reset state meets both invariants (spec/10_state.md R49). -/

namespace Sys2Proof.Machine

/-- Every register is 0 and nothing runs or waits after reset, so each clause of `Wf` is about 0 or about nothing. -/
theorem State.resetWith_wf {c : Config} (h : c.legal = true) : (State.resetWith c).Wf where
  legal := h
  base_lt := Nat.two_pow_pos _
  len_lt := Nat.two_pow_pos _
  idx_lt := Nat.two_pow_pos _
  idx_in_message hb := absurd hb (by simp [State.busy, State.resetWith])
  not_busy_and_done _ := rfl
  empty_is_done he := he
  pending_is_needed hp := absurd hp Bool.false_ne_true
  one_engine _ k hk _ := Vector.getElem_replicate hk
  eight_engines _ := ⟨rfl, rfl⟩
  mem_wf := rfl
  mem_within := rfl

/-- No operation runs after reset. -/
theorem State.resetWith_progress (c : Config) : (State.resetWith c).Progress := fun _ => trivial

/-- Settles O46: nothing runs after reset and every register is 0 (spec/10_state.md R49). -/
theorem resetIsWellFormed : Obligations.ResetIsWellFormed :=
  ⟨fun c hc => ⟨State.resetWith_wf hc, State.resetWith_progress c⟩,
    State.resetWith_wf Tests.witness_ResetIsWellFormed, State.resetWith_progress _⟩

end Sys2Proof.Machine
end

section
/-! SUPPORT. What platform writes outside the message leave of it (spec/20_memory.md R63, spec/70_reset_and_hazards.md
R270). -/

namespace Sys2Proof.Machine

/-! ### Memory -/

theorem Memory.read_cons_of_ne {a a' : Nat} (h : a ≠ a') (b : Byte) (m : Memory) :
    (Memory.cons a b m).read a' = m.read a' := by
  unfold Memory.cons
  split
  · rfl
  · exact if_neg h

/-- A write leaves every other address as it was, whatever the form of the memory. -/
theorem Memory.read_write_of_ne {a a' : Nat} (h : a ≠ a') (b : Byte) (m : Memory) :
    (m.write a b).read a' = m.read a' := by
  induction m with
  | nil => exact Memory.read_cons_of_ne h b []
  | cons c m ih =>
    obtain ⟨x, y⟩ := c
    simp only [Memory.write]
    split
    · exact Memory.read_cons_of_ne h b _
    · split
      · next heq => rw [Memory.read_cons_of_ne h, Memory.read, if_neg (heq ▸ h)]
      · simp only [Memory.read, ih]

/-! ### Platform writes -/

section
variable (s : State) (l : List (Word × Byte))

@[simp] theorem State.platformStores_cfg : (s.platformStores l).cfg = s.cfg := by
  obtain ⟨m, d, h⟩ := s.platformStores_eq l; rw [h]
@[simp] theorem State.platformStores_base : (s.platformStores l).base = s.base := by
  obtain ⟨m, d, h⟩ := s.platformStores_eq l; rw [h]
@[simp] theorem State.platformStores_len : (s.platformStores l).len = s.len := by
  obtain ⟨m, d, h⟩ := s.platformStores_eq l; rw [h]
@[simp] theorem State.platformStores_hash8 : (s.platformStores l).hash8 = s.hash8 := by
  obtain ⟨m, d, h⟩ := s.platformStores_eq l; rw [h]
@[simp] theorem State.platformStores_hash64 : (s.platformStores l).hash64 = s.hash64 := by
  obtain ⟨m, d, h⟩ := s.platformStores_eq l; rw [h]
@[simp] theorem State.platformStores_op : (s.platformStores l).op = s.op := by
  obtain ⟨m, d, h⟩ := s.platformStores_eq l; rw [h]
@[simp] theorem State.platformStores_idx : (s.platformStores l).idx = s.idx := by
  obtain ⟨m, d, h⟩ := s.platformStores_eq l; rw [h]
@[simp] theorem State.platformStores_iter : (s.platformStores l).iter = s.iter := by
  obtain ⟨m, d, h⟩ := s.platformStores_eq l; rw [h]
@[simp] theorem State.platformStores_fb : (s.platformStores l).fb = s.fb := by
  obtain ⟨m, d, h⟩ := s.platformStores_eq l; rw [h]
@[simp] theorem State.platformStores_lanes : (s.platformStores l).lanes = s.lanes := by
  obtain ⟨m, d, h⟩ := s.platformStores_eq l; rw [h]
@[simp] theorem State.platformStores_accv : (s.platformStores l).accv = s.accv := by
  obtain ⟨m, d, h⟩ := s.platformStores_eq l; rw [h]
@[simp] theorem State.platformStores_inputs : (s.platformStores l).inputs = s.inputs := by
  obtain ⟨m, d, h⟩ := s.platformStores_eq l; rw [h]
@[simp] theorem State.platformStores_busy : (s.platformStores l).busy = s.busy := by
  obtain ⟨m, d, h⟩ := s.platformStores_eq l; rw [h]; rfl

@[simp] theorem State.platformStores_msgAddr (i : Nat) : (s.platformStores l).msgAddr i = s.msgAddr i := by
  simp [State.msgAddr]

end

/-- A byte that no write of the cycle goes to reads as before. -/
theorem State.platformStores_read {s : State} {c : Cycle} {a : Nat} (h : s.storesTo c a = false) :
    (s.platformStores c.stores).mem.read a = s.mem.read a := by
  unfold State.storesTo at h
  unfold State.platformStores
  generalize c.stores = l at h
  induction l generalizing s with
  | nil => rfl
  | cons w l ih =>
    obtain ⟨hw, hl⟩ : (keepLow s.cfg.aw w.1).toNat ≠ a ∧ (l.any fun w => (keepLow s.cfg.aw w.1).toNat == a) = false := by
      simpa using h
    rw [List.foldl_cons, ih (s := s.platformStore w) hl]
    exact Memory.read_write_of_ne hw _ _

/-! ### The message and the duty -/

/-- The message is a matter of BASE, LEN, the address width and the memory. -/
theorem State.message_congr {s t : State} (hc : t.cfg = s.cfg) (hb : t.base = s.base) (hl : t.len = s.len)
    (hm : t.mem = s.mem) : t.message = s.message := by
  simp only [State.message, State.msgAddr, hc, hb, hl, hm]

theorem State.messageIntact_congr {s t : State} (hc : t.cfg = s.cfg) (hb : t.base = s.base) (hl : t.len = s.len)
    (hd : t.disturbed = s.disturbed) : t.MessageIntact ↔ s.MessageIntact := by
  simp only [State.MessageIntact, State.msgAddr, hc, hb, hl, hd]

theorem State.leavesMessage_congr {s t : State} (hc : t.cfg = s.cfg) (hb : t.base = s.base) (hl : t.len = s.len)
    (c : Cycle) : t.LeavesMessage c ↔ s.LeavesMessage c := by
  simp only [State.LeavesMessage, State.storesTo, State.msgAddr, hc, hb, hl]

theorem State.leavesMessage_of_no_stores (s : State) {c : Cycle} (h : c.stores = []) : s.LeavesMessage c := by
  intro i _
  simp [State.storesTo, h]

/-- Writes outside the message leave it as it was (spec/70_reset_and_hazards.md R270). -/
theorem State.message_platformStores {s : State} {c : Cycle} (h : s.LeavesMessage c) :
    (s.platformStores c.stores).message = s.message := by
  simp only [State.message, State.platformStores_len, State.platformStores_msgAddr]
  exact List.map_congr_left fun i hi => State.platformStores_read (h i (List.mem_range.1 hi))

/-- While an operation runs, the message stays undisturbed exactly if no write goes to it (spec/20_memory.md R78). -/
theorem State.messageIntact_platformStores {s : State} (hb : s.busy = true) (c : Cycle) :
    (s.platformStores c.stores).MessageIntact ↔ s.MessageIntact ∧ s.LeavesMessage c := by
  simp only [State.MessageIntact, State.LeavesMessage, State.platformStores_len, State.platformStores_msgAddr,
    State.mem_platformStores_disturbed s c.stores hb, not_or, Bool.not_eq_true, State.storesTo]
  constructor
  · intro h
    exact ⟨fun i hi => (h i hi).left, fun i hi => (h i hi).right⟩
  · intro ⟨hold, hnew⟩ i hi
    exact ⟨hold i hi, hnew i hi⟩

/-- A read of an undisturbed message byte returns it (spec/20_memory.md R63, R67). -/
theorem State.answer_of_messageIntact {s : State} (hi : s.MessageIntact) (hidx : s.idx.toNat < s.len.toNat) :
    s.message[s.idx.toNat]? = some s.answer.1 := by
  have hmem : s.mAddr.toNat ∉ s.disturbed := hi _ hidx
  rw [List.getElem?_eq_getElem (by simpa using hidx), State.message_getElem, State.answer, if_neg hmem]
  rfl

end Sys2Proof.Machine
end

section
/-! SUPPORT. The hash functions one byte and one lane at a time (spec/41_byte_hash.md R142, spec/42_hash64.md R171,
R172). -/

namespace Sys2Proof.Machine

/-- One more byte of the message folds in through the table (R142). -/
theorem byteHash_take_succ {m : List Byte} {i : Nat} {b : Byte} (h : m[i]? = some b) (t : Table) :
    byteHash (m.take (i + 1)) t = lut t (byteHash (m.take i) t ^^^ b) := by
  simp [byteHash, List.take_add_one, h]

@[simp] theorem perturb_zero (m : List Byte) : perturb m 0 = m := by
  cases m <;> simp [perturb]

/-- Perturbation adds `k` to byte 0 (spec/00_scope.md R14, spec/42_hash64.md R170). -/
@[simp] theorem perturb_getElem?_zero (m : List Byte) (k : Nat) :
    (perturb m k)[0]? = m[0]?.map (· + BitVec.ofNat 8 k) := by
  cases m <;> rfl

/-- Perturbation leaves every byte but byte 0 as it is. -/
theorem perturb_getElem?_of_pos (m : List Byte) (k : Nat) {i : Nat} (h : i ≠ 0) : (perturb m k)[i]? = m[i]? := by
  obtain ⟨j, rfl⟩ := Nat.exists_eq_succ_of_ne_zero h
  cases m <;> rfl

/-- Adding a byte to a lane that is 0, with nothing above it, writes the lane: the sum never carries (R172). -/
theorem add_shifted_eq_setLane {r : Dword} {k : Nat} (b : Byte) (h : ∀ j, 8 * k ≤ j → r.getLsbD j = false) :
    r + (b.setWidth 64 <<< (8 * k)) = setLane r k b := by
  have hand : r &&& (b.setWidth 64 <<< (8 * k)) = 0#64 := by
    apply BitVec.eq_of_getLsbD_eq
    intro j _
    by_cases hj : j < 8 * k
    · simp [hj]
    · simp [h j (by omega)]
  have hmask : r &&& ~~~(0xFF#64 <<< (8 * k)) = r := by
    apply BitVec.eq_of_getLsbD_eq
    intro j hj
    by_cases hjk : j < 8 * k
    · simp [hj, hjk]
    · simp [h j (by omega)]
  rw [BitVec.add_eq_or_of_and_eq_zero _ _ hand, setLane, hmask]

/-- The bits of a value are the bits of its lanes. -/
theorem getLsbD_eq_laneOf (r : Dword) (j : Nat) : r.getLsbD j = (laneOf r (j / 8)).getLsbD (j % 8) := by
  rw [laneOf_getLsbD, Nat.div_add_mod]
  simp [Nat.mod_lt]

/-- Summing bytes shifted to lanes 0 … n−1 puts each in its lane (R171, R172). -/
theorem laneOf_sum_shifted (f : Nat → Byte) {n : Nat} (hn : n ≤ 8) {k : Nat} (hk : k < 8) :
    laneOf ((List.range n).foldl (fun r k => r + ((f k).setWidth 64 <<< (8 * k))) 0#64) k =
      if k < n then f k else 0#8 := by
  induction n generalizing k with
  | zero => rw [if_neg (Nat.not_lt_zero k)]; exact BitVec.extractLsb'_zero
  | succ n ih =>
    have hlow : ∀ j, 8 * n ≤ j →
        ((List.range n).foldl (fun r k => r + ((f k).setWidth 64 <<< (8 * k))) 0#64).getLsbD j = false := by
      intro j hj
      by_cases h64 : j < 64
      · rw [getLsbD_eq_laneOf, ih (by omega) (by omega), if_neg (by omega)]
        simp
      · exact BitVec.getLsbD_of_ge _ _ (by omega)
    rw [List.range_succ, List.foldl_append, List.foldl_cons, List.foldl_nil, add_shifted_eq_setLane _ hlow,
      laneOf_setLane _ _ (by omega) hk, ih (by omega) hk]
    by_cases hkn : k = n
    · simp [hkn]
    · have hlt : k < n + 1 ↔ k < n := by omega
      simp only [if_neg hkn, hlt]

/-- Lane k of the 64-bit hash is the byte hash of the message with its first byte advanced by k (R171). -/
theorem laneOf_hash64 (m : List Byte) (t : Table) {k : Nat} (hk : k < 8) :
    laneOf (hash64 m t) k = byteHash (perturb m k) t := by
  have h := laneOf_sum_shifted (fun k => byteHash (perturb m k) t) (Nat.le_refl 8) hk
  rwa [if_pos hk] at h

/-- A byte put above seven lanes is lane 7, and the lanes below stay (spec/42_hash64.md R179). -/
theorem laneOf_append_low (b : Byte) (r : Dword) {k : Nat} (hk : k < 8) :
    laneOf (b ++ r.extractLsb' 0 56 : Dword) k = if k = 7 then b else laneOf r k := by
  apply BitVec.eq_of_getLsbD_eq
  intro i hi
  rw [laneOf_getLsbD, BitVec.getLsbD_append]
  by_cases h7 : k = 7
  · subst h7
    simp [hi]
  · have h56 : 8 * k + i < 56 := by omega
    rw [if_pos h56, if_neg h7, BitVec.getLsbD_extractLsb', laneOf_getLsbD]
    simp [h56]

end Sys2Proof.Machine
end

section
/-! SUPPORT. One clock cycle while an operation runs, and the cycle that accepts one (spec/70_reset_and_hazards.md R273,
spec/41_byte_hash.md R143, R145). -/

namespace Sys2Proof.Machine

/-! ### The registers of the operation -/

/-- The two states agree in every register that an operation reads or writes, the message memory and RDPEND aside. -/
structure State.SameEngine (s x : State) : Prop where
  cfg : x.cfg = s.cfg
  base : x.base = s.base
  len : x.len = s.len
  hash8 : x.hash8 = s.hash8
  hash64 : x.hash64 = s.hash64
  op : x.op = s.op
  idx : x.idx = s.idx
  iter : x.iter = s.iter
  fb : x.fb = s.fb
  lanes : x.lanes = s.lanes
  accv : x.accv = s.accv

namespace State.SameEngine

variable {s x : State} (h : s.SameEngine x)
include h

theorem busy : x.busy = s.busy := by simp only [State.busy, h.op]

theorem steered : x.steered = s.steered := by simp only [State.steered, h.op, h.cfg, h.idx, h.iter]

theorem lastStep : x.lastStep = s.lastStep := by
  simp only [State.lastStep, State.lastByte, h.op, h.cfg, h.idx, h.len, h.iter]

theorem stepsIn (c : Cycle) : x.stepsIn c = s.stepsIn c := by simp only [State.stepsIn, h.busy, h.steered]

theorem withRequest (r : Bool) (n : Nat) : s.SameEngine { x with rdpend := r, draws := n } :=
  { cfg := h.cfg, base := h.base, len := h.len, hash8 := h.hash8, hash64 := h.hash64, op := h.op, idx := h.idx
    iter := h.iter, fb := h.fb, lanes := h.lanes, accv := h.accv }

/-- What the registers hold of the message is the same, if the message is. -/
theorem progress (hm : x.message = s.message) (hi : s.MessageIntact) (hp : s.Progress) : x.Progress := by
  intro _
  simpa only [State.acc, h.op, h.cfg, h.idx, h.iter, h.fb, h.lanes, h.accv, hm] using hp hi

end State.SameEngine

/-! ### Every cycle answers a next state -/

/-- Every instruction answers a next state: the core has no trap (spec/60_exceptions.md R230). -/
theorem exists_exec_eq_next (i : Instr) (s : State) : ∃ t, exec i s = .next t := by
  cases i <;> exact ⟨_, rfl⟩

/-- Every cycle answers a next state. -/
theorem exists_step_eq_next (s : State) : ∃ t, step s = .next t := by
  unfold step runCycle
  split
  · exact ⟨_, rfl⟩
  · split
    · exact ⟨_, rfl⟩
    · next item _ =>
      obtain ⟨t, h⟩ := exists_exec_eq_next (decode item) s.popInput
      rw [h]
      exact ⟨_, rfl⟩

/-! ### The engine's part of a cycle -/

theorem State.readNeeded_of_busy {s : State} (hb : s.busy = true) : s.readNeeded = !s.steered := by
  simp [State.readNeeded, hb]

/-- The engine of a running operation either waits, changing RDPEND alone, or takes its step on the steered byte or the
memory's answer (spec/20_memory.md R62, spec/41_byte_hash.md R145, spec/42_hash64.md R175). -/
theorem State.engineCycle_of_busy {s : State} (hb : s.busy = true) {c : Cycle} (hr : c.rst = false) :
    ∃ r n,
      (s.stepsIn c = false ∧ s.engineCycle c = { s with rdpend := r, draws := n }) ∨
      (s.stepsIn c = true ∧ s.engineCycle c =
        State.engineStep { s with rdpend := r, draws := n } (if s.steered then s.steeredByte else s.answer.1)) := by
  have hread := State.readNeeded_of_busy hb
  obtain ⟨hn, ha, he⟩ | ⟨hn, ha, he⟩ | ⟨hn, ha, he⟩ | ⟨hn, ha, he⟩ := s.engineCycle_cases c
  all_goals
    rw [hread] at hn
    simp only [Bool.not_eq_true', Bool.not_eq_false'] at hn
  · exact ⟨true, s.draws, .inl ⟨by simp [State.stepsIn, hn, ha], he⟩⟩
  · exact ⟨false, s.answer.2, .inr ⟨by simp [State.stepsIn, hr, hb, hn, ha], by rw [he, hn]; rfl⟩⟩
  · exact ⟨s.rdpend, s.draws, .inl ⟨by simp [State.stepsIn, hn, ha], he⟩⟩
  · exact ⟨s.rdpend, s.draws, .inr ⟨by simp [State.stepsIn, hr, hb, hn, ha], by rw [he, hn]; rfl⟩⟩

/-- The engine's part of a cycle takes no input. -/
theorem State.engineCycle_inputs (s : State) (c : Cycle) : (s.engineCycle c).inputs = s.inputs := by
  have hstep : ∀ (x : State) b, (x.engineStep b).inputs = x.inputs := by
    intro x b
    obtain ⟨_, _, _, _, _, _, _, _, _, h⟩ := x.engineStep_frame b
    rw [h]
  obtain ⟨-, -, h⟩ | ⟨-, -, h⟩ | ⟨-, -, h⟩ | ⟨-, -, h⟩ := s.engineCycle_cases c <;> rw [h]
  · rw [hstep]; rfl
  · rw [hstep]

/-- A step takes the first of the inputs to come. -/
theorem step_inputs {s t : State} (h : step s = .next t) : t.inputs = s.inputs.tail := by
  obtain ⟨-, rfl⟩ | ⟨-, u, hu, rfl⟩ := step_cases h
  · obtain ⟨m, w, he⟩ := s.popInput.resetCycle_eq s.nextCycle
    rw [he]; rfl
  · have hui : u.inputs = s.inputs.tail := by
      obtain ⟨-, rfl⟩ | ⟨item, -, he⟩ := hu
      · rfl
      · obtain ⟨-, -, hi, -⟩ := exec_frame he
        exact hi
    unfold State.afterHost
    split <;> simp [State.engineCycle_inputs, hui]

/-! ### A cycle while an operation runs -/

/-- Platform writes do not look at the flags, the word returned to the host or the inputs. -/
theorem State.platformStores_withFlags (s : State) (l : List (Word × Byte)) (d ee ec eb : Bool) (w : Word)
    (is : List Cycle) :
    State.platformStores
        { s with done := d, errEmpty := ee, errCmd := ec, errBusy := eb, hrdata := w, inputs := is } l =
      { s.platformStores l with done := d, errEmpty := ee, errCmd := ec, errBusy := eb, hrdata := w, inputs := is } := by
  unfold State.platformStores
  induction l generalizing s with
  | nil => rfl
  | cons _ l ih => exact ih (s.platformStore _)

/-- In a cycle without reset that begins with an operation running, the host access changes nothing of the operation,
and the engine finds the memory as the platform's writes leave it (R273). -/
theorem step_of_busy_engineCycle {s t : State} (hb : s.busy = true) (hr : s.nextCycle.rst = false)
    (h : step s = .next t) :
    ∃ v, s.SameEngine v ∧ v.mem = (s.platformStores s.nextCycle.stores).mem ∧
      v.disturbed = (s.platformStores s.nextCycle.stores).disturbed ∧
      v.answer = (s.platformStores s.nextCycle.stores).answer ∧ t = v.engineCycle s.nextCycle := by
  obtain ⟨hr', -⟩ | ⟨-, u, hu, rfl⟩ := step_cases h
  · rw [hr] at hr'; cases hr'
  obtain ⟨d, ee, ec, eb, w, rfl⟩ : ∃ d ee ec eb w, u =
      { s with done := d, errEmpty := ee, errCmd := ec, errBusy := eb, hrdata := w, inputs := s.inputs.tail } := by
    obtain ⟨-, rfl⟩ | ⟨item, -, he⟩ := hu
    · exact ⟨_, _, _, _, _, rfl⟩
    · obtain ⟨d, ee, ec, eb, w, rfl, -, -⟩ := exec_busy he hb
      exact ⟨d, ee, ec, eb, w, rfl⟩
  rw [State.afterHost, hb, if_pos rfl, State.platformStores_withFlags s _ d ee ec eb w]
  refine ⟨_, ?_, ?_, ?_, ?_, rfl⟩
  · constructor <;> simp
  · rfl
  · rfl
  · rfl

theorem State.sameEngine_platformStores (s : State) (l : List (Word × Byte)) : s.SameEngine (s.platformStores l) := by
  constructor <;> simp

/-- A cycle without reset that begins with an operation running: the engine waits, or takes its step on the byte consumed
in the cycle. -/
theorem step_of_busy {s t : State} (hb : s.busy = true) (hr : s.nextCycle.rst = false) (h : step s = .next t) :
    ∃ x, s.SameEngine x ∧ x.mem = (s.platformStores s.nextCycle.stores).mem ∧
      x.disturbed = (s.platformStores s.nextCycle.stores).disturbed ∧
      ((s.stepsIn s.nextCycle = false ∧ t = x) ∨
        s.stepsIn s.nextCycle = true ∧ ∃ b, s.consumed s.nextCycle = some b ∧ t = x.engineStep b) := by
  obtain ⟨v, hv, hmem, hdist, hans, rfl⟩ := step_of_busy_engineCycle hb hr h
  obtain ⟨r, n, hwait | hstep⟩ := State.engineCycle_of_busy (hv.busy.trans hb) hr
  · obtain ⟨hs, he⟩ := hwait
    exact ⟨_, hv.withRequest r n, hmem, hdist, .inl ⟨hv.stepsIn _ ▸ hs, he⟩⟩
  · obtain ⟨hs, he⟩ := hstep
    rw [hv.stepsIn] at hs
    refine ⟨_, hv.withRequest r n, hmem, hdist, .inr ⟨hs, _, ?_, he⟩⟩
    rw [State.consumed, if_pos hs, hv.steered, hans, State.steeredByte, State.steeredByte, hv.fb, hv.iter]

/-! ### The cycle that accepts a start -/

/-- A command word has the meaning that CTRL gives it (spec/30_encoding.md R92, R93). -/
theorem exec_decodeCommand (w : Word) (s : State) : exec (decodeCommand w) s = .next (s.issueCommand w) := by
  unfold decodeCommand State.issueCommand
  generalize (opcOf w).toNat = n
  match n with
  | 0 | 1 | 2 | 3 | _ + 4 => rfl

/-- A CTRL write issues the command its word holds, in either of the two formats (spec/43_control.md R205). -/
theorem exec_of_itemOpc {item : HostItem} {opc : BitVec 3} (h : itemOpc item = some opc) (s : State) :
    ∃ w, opcOf w = opc ∧ exec (decode item) s = .next (s.issueCommand w) := by
  cases item with
  | command w =>
    injection h with h
    exact ⟨w, h, exec_decodeCommand w s⟩
  | access code data =>
    simp only [itemOpc, Bool.and_eq_true, beq_iff_eq] at h
    split at h
    · next hc =>
      obtain ⟨hwe, hoff⟩ := hc
      injection h with h
      refine ⟨data, h, ?_⟩
      have hoff' : offOf code = 0#3 := hoff
      simp only [decode, decodeAccess, weOf, hwe, if_true, decodeWrite, hoff']
      rfl
    · cases h

/-- The HASH64 command, in either format (spec/42_hash64.md R173). -/
theorem exec_of_isHash64 {item : HostItem} (h : isHash64 item = true) (s : State) :
    exec (decode item) s = .next s.startHash64 := by
  obtain ⟨w, hw, he⟩ := exec_of_itemOpc (beq_iff_eq.1 h) s
  rw [he, State.issueCommand, hw]
  rfl

theorem State.acceptsIn_iff {s : State} {c : Cycle} :
    s.acceptsIn c = true ↔ c.rst = false ∧ s.busy = false ∧ c.hostIs isStart = true := by
  simp [State.acceptsIn, and_assoc]

/-- The cycle that accepts a HASH64: the command takes effect and the platform's writes land; the engine takes no step
(R173; log entry 8). -/
theorem step_of_accepted_hash64 {s t : State} (ha : s.acceptsIn s.nextCycle = true)
    (hc : s.nextCycle.hostIs isHash64 = true) (h : step s = .next t) :
    s.busy = false ∧ t = s.popInput.startHash64.platformStores s.nextCycle.stores := by
  obtain ⟨hr, hb, -⟩ := State.acceptsIn_iff.1 ha
  obtain ⟨item, hi, hp⟩ := (Option.any_eq_true _ _).1 hc
  obtain ⟨hr', -⟩ | ⟨-, u, ⟨hn, -⟩ | ⟨item', hi', he⟩, rfl⟩ := step_cases h
  · rw [hr] at hr'; cases hr'
  · rw [hi] at hn; cases hn
  · rw [hi] at hi'
    injection hi' with hi'
    subst hi'
    rw [exec_of_isHash64 hp] at he
    injection he with he
    exact ⟨hb, by rw [State.afterHost, hb, he, if_neg Bool.false_ne_true]⟩

end Sys2Proof.Machine
end

section
/-! SUPPORT. What a step of the engine makes of the operation's registers: their progress through the message, the count
of steps, and the result (spec/41_byte_hash.md R147–R150, spec/42_hash64.md R175–R181). -/

namespace Sys2Proof.Machine

/-! ### `Progress`, one equation for each operation -/

theorem State.progress_h8 {s : State} (ho : s.op = .h8) :
    s.Progress ↔ (s.MessageIntact → s.acc = byteHash (s.message.take s.idx.toNat) s.cfg.table) := by
  simp only [State.Progress, ho]

theorem State.progress_h64_one {s : State} (ho : s.op = .h64) (he : s.cfg.engines = .one) :
    s.Progress ↔ (s.MessageIntact →
      (s.idx ≠ 0#32 ∨ s.iter ≠ 0#3 → s.message.head? = some s.fb) ∧
      s.acc = byteHash ((perturb s.message s.iter.toNat).take s.idx.toNat) s.cfg.table ∧
      ∀ k, k < s.iter.toNat → laneOf s.lanes k = byteHash (perturb s.message k) s.cfg.table) := by
  simp only [State.Progress, ho, he]

theorem State.progress_h64_eight {s : State} (ho : s.op = .h64) (he : s.cfg.engines = .eight) :
    s.Progress ↔ (s.MessageIntact → ∀ k (h : k < 8),
      s.accv[k] = byteHash ((perturb s.message k).take s.idx.toNat) s.cfg.table) := by
  simp only [State.Progress, ho, he]

/-! ### The message across an engine step -/

theorem State.message_engineStep (s : State) (b : Byte) : (s.engineStep b).message = s.message := by
  obtain ⟨_, _, _, _, _, _, _, _, _, h⟩ := s.engineStep_frame b
  rw [h]; rfl

theorem State.messageIntact_engineStep (s : State) (b : Byte) : (s.engineStep b).MessageIntact ↔ s.MessageIntact := by
  obtain ⟨_, _, _, _, _, _, _, _, _, h⟩ := s.engineStep_frame b
  rw [h]; rfl

/-! ### Where an operation stands -/

/-- The number of engine steps a running operation has taken: IDX, and LEN more for each iteration of the sequential
HASH64 that is over (spec/42_hash64.md R185). -/
def State.stepsDone (s : State) : Nat :=
  match s.op, s.cfg.engines with
  | .h64, .one => s.iter.toNat * s.len.toNat + s.idx.toNat
  | .h64, .eight | .h8, _ | .none, _ => s.idx.toNat

theorem State.SameEngine.stepsDone {s x : State} (h : s.SameEngine x) : x.stepsDone = s.stepsDone := by
  simp only [State.stepsDone, h.op, h.cfg, h.iter, h.len, h.idx]

/-- The operation `op`, accepted with the operands of `s`, is running in `u`. -/
structure State.Operating (op : Op) (s u : State) : Prop where
  op : u.op = op
  busy : u.busy = true
  cfg : u.cfg = s.cfg
  base : u.base = s.base
  len : u.len = s.len
  idx_lt : u.idx.toNat < u.len.toNat

/-- An operation is running on the message of `s`, which nobody has disturbed, and has made of it what it should. -/
structure State.OnMessage (s u : State) : Prop where
  message : u.message = s.message
  intact : u.MessageIntact
  progress : u.Progress

/-- Writes outside the message leave an operation at work on it. -/
theorem State.OnMessage.of_stores {s u x : State} {c : Cycle} (h : s.OnMessage u) (hb : u.busy = true)
    (hl : u.LeavesMessage c) (hx : u.SameEngine x) (hm : x.mem = (u.platformStores c.stores).mem)
    (hd : x.disturbed = (u.platformStores c.stores).disturbed) : s.OnMessage x := by
  have hp := u.sameEngine_platformStores c.stores
  have hcfg := hx.cfg.trans hp.cfg.symm
  have hbase := hx.base.trans hp.base.symm
  have hlen := hx.len.trans hp.len.symm
  have hmsg : x.message = u.message :=
    (State.message_congr hcfg hbase hlen hm).trans (State.message_platformStores hl)
  exact ⟨hmsg.trans h.message,
    (State.messageIntact_congr hcfg hbase hlen hd).2 ((State.messageIntact_platformStores hb c).2 ⟨h.intact, hl⟩),
    hx.progress hmsg h.intact h.progress⟩

namespace State.Operating

variable {op : Op} {s u x : State}

theorem sameEngine (h : s.Operating op u) (hx : u.SameEngine x) : s.Operating op x where
  op := hx.op.trans h.op
  busy := hx.busy.trans h.busy
  cfg := hx.cfg.trans h.cfg
  base := hx.base.trans h.base
  len := hx.len.trans h.len
  idx_lt := by rw [hx.idx, hx.len]; exact h.idx_lt

/-- An operation has more steps to take. -/
theorem stepsDone_lt (h : s.Operating op u) : u.stepsDone < stepCount op s.cfg.engines s.len.toNat := by
  have hidx := h.len ▸ h.idx_lt
  have hbusy := (State.busy_iff u).1 h.busy
  rw [h.op] at hbusy
  simp only [State.stepsDone, stepCount, h.op, h.cfg, h.len]
  cases op with
  | none => exact absurd rfl hbusy
  | h8 => exact hidx
  | h64 =>
    cases s.cfg.engines with
    | eight => exact hidx
    | one =>
      have hiter : u.iter.toNat * s.len.toNat ≤ 7 * s.len.toNat := Nat.mul_le_mul_right _ (by omega)
      show _ * _ + _ < _ * _
      omega

end State.Operating

theorem State.lastByte_iff {s : State} : s.lastByte = true ↔ s.idx.toNat + 1 = s.len.toNat := beq_iff_eq

/-- Before the last byte IDX + 1 is an index of the message, and the index register holds it (spec/41_byte_hash.md R147,
R148). -/
theorem State.Operating.nextIdx_toNat {op : Op} {u s : State} (ho : u.Operating op s)
    (hlen : u.len.toNat < 2 ^ u.cfg.lw) (hl : s.lastByte = false) :
    s.nextIdx.toNat = s.idx.toNat + 1 ∧ s.idx.toNat + 1 < s.len.toNat := by
  have hlw : s.len.toNat < 2 ^ s.cfg.lw := by rw [ho.len, ho.cfg]; exact hlen
  have h : s.idx.toNat + 1 < s.len.toNat :=
    Nat.lt_of_le_of_ne ho.idx_lt fun he => Bool.false_ne_true (hl.symm.trans (State.lastByte_iff.2 he))
  refine ⟨?_, h⟩
  have hsum : (s.idx + 1#32).toNat = s.idx.toNat + 1 := by
    rw [BitVec.toNat_add_of_lt (by simp; omega)]
    rfl
  rw [State.nextIdx, keepLow_toNat, hsum, Nat.mod_eq_of_lt (by omega)]

/-- ITER counts the iterations before the last without overflow (spec/42_hash64.md R178). -/
theorem State.iter_succ_toNat {s : State} (h : s.iter ≠ 7#3) : (s.iter + 1#3).toNat = s.iter.toNat + 1 := by
  revert h
  generalize s.iter = k
  revert k
  decide

/-! ### The step of each operation -/

theorem State.engineStep_h8 {s : State} (ho : s.op = .h8) (b : Byte) : s.engineStep b = s.stepHash8 b := by
  simp only [State.engineStep, ho]

theorem State.engineStep_h64_one {s : State} (ho : s.op = .h64) (he : s.cfg.engines = .one) (b : Byte) :
    s.engineStep b = s.stepHash64Seq b := by
  simp only [State.engineStep, ho, State.stepHash64, he]

theorem State.engineStep_h64_eight {s : State} (ho : s.op = .h64) (he : s.cfg.engines = .eight) (b : Byte) :
    s.engineStep b = s.stepHash64Par b := by
  simp only [State.engineStep, ho, State.stepHash64, he]

theorem State.lastStep_h8 {s : State} (ho : s.op = .h8) : s.lastStep = s.lastByte := by
  simp [State.lastStep, ho]

theorem State.lastStep_h64_one {s : State} (ho : s.op = .h64) (he : s.cfg.engines = .one) :
    s.lastStep = (s.lastByte && s.iter == 7#3) := by
  have hne : (Op.h64 == Op.h8) = false ∧ (Engines.one == Engines.eight) = false := by decide
  simp [State.lastStep, ho, he, hne]

theorem State.lastStep_h64_eight {s : State} (he : s.cfg.engines = .eight) : s.lastStep = s.lastByte := by
  simp [State.lastStep, he]

/-- The last step ends the operation (spec/41_byte_hash.md R150). -/
theorem State.engineStep_op_of_lastStep {s : State} (hl : s.lastStep = true) (b : Byte) :
    (s.engineStep b).op = .none := by
  cases ho : s.op with
  | none => simp only [State.engineStep, ho]
  | h8 =>
    rw [State.lastStep_h8 ho] at hl
    rw [State.engineStep_h8 ho, State.stepHash8_eq, if_pos hl]
  | h64 =>
    cases he : s.cfg.engines with
    | one =>
      rw [State.lastStep_h64_one ho he, Bool.and_eq_true, beq_iff_eq] at hl
      obtain ⟨hbyte, hiter⟩ := hl
      rw [State.engineStep_h64_one ho he, State.stepHash64Seq_eq, if_pos hbyte, if_pos hiter]
    | eight =>
      rw [State.lastStep_h64_eight he] at hl
      rw [State.engineStep_h64_eight ho he, State.stepHash64Par_eq, if_pos hl]

/-- A step that is not the last goes on to the next byte of its run, or, in the sequential HASH64, to byte 0 of the next
iteration (spec/41_byte_hash.md R147, spec/42_hash64.md R178). -/
theorem State.engineStep_of_not_lastStep {s : State} (hb : s.busy = true) (hl : s.lastStep = false) (b : Byte) :
    (s.engineStep b).op = s.op ∧
      ((s.lastByte = false ∧ (s.engineStep b).idx = s.nextIdx ∧ (s.engineStep b).iter = s.iter) ∨
        (s.lastByte = true ∧ s.op = .h64 ∧ s.cfg.engines = .one ∧ s.iter ≠ 7#3 ∧ (s.engineStep b).idx = 0#32 ∧
          (s.engineStep b).iter = s.iter + 1#3)) := by
  cases ho : s.op with
  | none => exact absurd ho ((State.busy_iff s).1 hb)
  | h8 =>
    rw [State.lastStep_h8 ho] at hl
    rw [State.engineStep_h8 ho, State.stepHash8_eq, hl, if_neg Bool.false_ne_true]
    exact ⟨ho, .inl ⟨rfl, rfl, rfl⟩⟩
  | h64 =>
    cases he : s.cfg.engines with
    | one =>
      rw [State.lastStep_h64_one ho he] at hl
      rw [State.engineStep_h64_one ho he, State.stepHash64Seq_eq]
      cases hbyte : s.lastByte with
      | false =>
        rw [if_neg Bool.false_ne_true]
        exact ⟨ho, .inl ⟨rfl, rfl, rfl⟩⟩
      | true =>
        have hiter : s.iter ≠ 7#3 := by simpa [hbyte] using hl
        rw [if_pos rfl, if_neg hiter]
        exact ⟨ho, .inr ⟨rfl, rfl, rfl, hiter, rfl, rfl⟩⟩
    | eight =>
      rw [State.lastStep_h64_eight he] at hl
      rw [State.engineStep_h64_eight ho he, State.stepHash64Par_eq, hl, if_neg Bool.false_ne_true]
      exact ⟨ho, .inl ⟨rfl, rfl, rfl⟩⟩

theorem State.Operating.engineStep {op : Op} {s x : State} (h : s.Operating op x)
    (hlen : s.len.toNat < 2 ^ s.cfg.lw) (hl : x.lastStep = false) (b : Byte) : s.Operating op (x.engineStep b) := by
  obtain ⟨hop, hcase⟩ := State.engineStep_of_not_lastStep h.busy hl b
  obtain ⟨_, _, _, _, _, _, _, _, _, hframe⟩ := x.engineStep_frame b
  have hlen' : (x.engineStep b).len = x.len := by rw [hframe]
  refine ⟨hop.trans h.op, ?_, ?_, ?_, hlen'.trans h.len, ?_⟩
  · rw [State.busy, hop]; exact h.busy
  · rw [hframe]; exact h.cfg
  · rw [hframe]; exact h.base
  · rw [hlen']
    obtain ⟨hbyte, hi, -⟩ | ⟨-, -, -, -, hi, -⟩ := hcase
    · obtain ⟨hnext, hlt⟩ := h.nextIdx_toNat hlen hbyte
      rw [hi, hnext]
      exact hlt
    · rw [hi]
      exact Nat.zero_lt_of_lt h.idx_lt

/-- Each step that is not the last counts one. -/
theorem State.Operating.stepsDone_engineStep {op : Op} {s x : State} (h : s.Operating op x)
    (hlen : s.len.toNat < 2 ^ s.cfg.lw) (hl : x.lastStep = false) (b : Byte) :
    (x.engineStep b).stepsDone = x.stepsDone + 1 := by
  obtain ⟨hop, hcase⟩ := State.engineStep_of_not_lastStep h.busy hl b
  have hy := h.engineStep hlen hl b
  simp only [State.stepsDone, hop, hy.cfg, hy.len, ← h.cfg, ← h.len]
  obtain ⟨hbyte, hi, hit⟩ | ⟨hbyte, ho, he, hiter, hi, hit⟩ := hcase
  · obtain ⟨hnext, -⟩ := h.nextIdx_toNat hlen hbyte
    rw [hi, hit, hnext]
    split <;> rfl
  · have hnext := State.iter_succ_toNat hiter
    rw [State.lastByte_iff] at hbyte
    simp only [ho, he, hi, hit, hnext, Nat.succ_mul, BitVec.toNat_ofNat]
    omega

/-- The last step is the last of the count (spec/42_hash64.md R185). -/
theorem State.Operating.stepsDone_of_lastStep {op : Op} {s x : State} (h : s.Operating op x)
    (hl : x.lastStep = true) : x.stepsDone + 1 = stepCount op s.cfg.engines s.len.toNat := by
  have hbyte : x.idx.toNat + 1 = s.len.toNat := by
    rw [← h.len, ← State.lastByte_iff]
    exact (Bool.and_eq_true_iff.1 hl).1
  have hbusy := (State.busy_iff x).1 h.busy
  have hop := h.op
  subst hop
  simp only [State.stepsDone, stepCount, ← h.cfg, ← h.len] at hbyte ⊢
  cases ho : x.op with
  | none => exact absurd ho hbusy
  | h8 => exact hbyte
  | h64 =>
    cases he : x.cfg.engines with
    | eight => exact hbyte
    | one =>
      rw [State.lastStep_h64_one ho he, Bool.and_eq_true, beq_iff_eq] at hl
      obtain ⟨-, hiter⟩ := hl
      show x.iter.toNat * x.len.toNat + x.idx.toNat + 1 = 8 * x.len.toNat
      rw [hiter]
      show 7 * x.len.toNat + x.idx.toNat + 1 = 8 * x.len.toNat
      omega

/-! ### The bytes and their folding -/

/-- The byte the coming step is to consume if nobody disturbs the message: byte IDX, advanced by ITER at index 0 of the
sequential HASH64 (spec/41_byte_hash.md R146, spec/42_hash64.md R175, R176). -/
def State.dueByte (s : State) : Option Byte :=
  if s.op = .h64 ∧ s.cfg.engines = .one then (perturb s.message s.iter.toNat)[s.idx.toNat]?
  else s.message[s.idx.toNat]?

theorem State.dueByte_of_h8 {x : State} (ho : x.op = .h8) : x.dueByte = x.message[x.idx.toNat]? :=
  if_neg fun h => by rw [ho] at h; cases h.1

theorem State.dueByte_of_eight {x : State} (he : x.cfg.engines = .eight) : x.dueByte = x.message[x.idx.toNat]? :=
  if_neg fun h => by rw [he] at h; cases h.2

theorem State.dueByte_of_one {x : State} (ho : x.op = .h64) (he : x.cfg.engines = .one) :
    x.dueByte = (perturb x.message x.iter.toNat)[x.idx.toNat]? := if_pos ⟨ho, he⟩

theorem State.SameEngine.dueByte {s x : State} (h : s.SameEngine x) (hm : x.message = s.message) :
    x.dueByte = s.dueByte := by
  simp only [State.dueByte, h.op, h.cfg, h.idx, h.iter, hm]

/-- A steered byte is byte 0 of the message advanced by ITER, and a byte that is read is the message's
(spec/42_hash64.md R175, R176). -/
theorem State.dueByte_eq_steeredByte_or_answer {s : State} (hp : s.Progress) (hi : s.MessageIntact)
    (hidx : s.idx.toNat < s.len.toNat) :
    s.dueByte = some (if s.steered then s.steeredByte else s.answer.1) := by
  have hans := State.answer_of_messageIntact hi hidx
  by_cases hseq : s.op = .h64 ∧ s.cfg.engines = .one
  · rw [State.dueByte, if_pos hseq]
    obtain ⟨ho, he⟩ := hseq
    obtain ⟨hfb, -, -⟩ := (State.progress_h64_one ho he).1 hp hi
    by_cases h0 : s.idx = 0#32
    · by_cases hit : s.iter = 0#3
      · have hst : s.steered = false := by simp [State.steered, hit]
        rw [hit, hst, if_neg Bool.false_ne_true, ← hans]
        exact congrArg (·[s.idx.toNat]?) (perturb_zero _)
      · have hst : s.steered = true := by simp [State.steered, ho, he, h0, hit]
        rw [hst, if_pos rfl, h0]
        show (perturb s.message s.iter.toNat)[0]? = _
        rw [perturb_getElem?_zero, ← List.head?_eq_getElem?, hfb (.inr hit), State.steeredByte, ← BitVec.ofNat_toNat]
        rfl
    · have hst : s.steered = false := by simp [State.steered, h0]
      rw [hst, if_neg Bool.false_ne_true, ← hans]
      exact perturb_getElem?_of_pos _ _ fun h => h0 (BitVec.eq_of_toNat_eq h)
  · have hst : s.steered = false := by
      rw [Bool.eq_false_iff]
      intro h
      simp only [State.steered, Bool.and_eq_true, beq_iff_eq] at h
      obtain ⟨⟨⟨ho, he⟩, -⟩, -⟩ := h
      exact hseq ⟨ho, he⟩
    rw [State.dueByte, if_neg hseq, hst, if_neg Bool.false_ne_true, hans]

/-- While nobody writes to the message, the byte consumed is the one due (spec/70_reset_and_hazards.md R270). -/
theorem State.consumed_eq_dueByte {s : State} {c : Cycle} (hb : s.busy = true) (hp : s.Progress)
    (hi : s.MessageIntact) (hl : s.LeavesMessage c) (hidx : s.idx.toNat < s.len.toNat)
    (hs : s.stepsIn c = true) : s.consumed c = s.dueByte := by
  have hm := State.message_platformStores hl
  have hstored := s.sameEngine_platformStores c.stores
  have hdue := State.dueByte_eq_steeredByte_or_answer (hstored.progress hm hi hp)
    ((State.messageIntact_platformStores hb c).2 ⟨hi, hl⟩) (by simpa using hidx)
  rw [hstored.dueByte hm, hstored.steered] at hdue
  rw [State.consumed, if_pos hs, hdue, State.steeredByte, State.steeredByte, hstored.fb, hstored.iter]

/-! ### Progress through the message -/

/-- The message byte of the coming step, folded into the byte hash of those before it (spec/41_byte_hash.md R147). -/
theorem State.fold_eq {s : State} {m : List Byte} {b : Byte} (hacc : s.acc = byteHash (m.take s.idx.toNat) s.cfg.table)
    (hb : m[s.idx.toNat]? = some b) : s.fold b = byteHash (m.take (s.idx.toNat + 1)) s.cfg.table := by
  rw [State.fold, hacc, byteHash_take_succ hb]

/-- Each lane of the parallel HASH64 folds its own byte, advanced by the lane's number at index 0 (R180). -/
theorem State.foldLanes_eq {s : State} {b : Byte} (hb : s.message[s.idx.toNat]? = some b) {k : Nat} (hk : k < 8)
    (hacc : s.accv[k] = byteHash ((perturb s.message k).take s.idx.toNat) s.cfg.table) :
    (s.foldLanes b)[k] = byteHash ((perturb s.message k).take (s.idx.toNat + 1)) s.cfg.table := by
  have hlane : (perturb s.message k)[s.idx.toNat]? = some (s.laneByte b k) := by
    unfold State.laneByte
    split
    · next h0 =>
      rw [h0] at hb ⊢
      exact (perturb_getElem?_zero _ _).trans (congrArg _ hb)
    · next h0 => rw [perturb_getElem?_of_pos _ _ fun h => h0 (BitVec.eq_of_toNat_eq h), hb]
  rw [byteHash_take_succ hlane, ← hacc]
  simp [State.foldLanes]

/-- The first `LEN` bytes are the whole message, perturbed or not. -/
theorem State.take_perturb_of_lastByte {s : State} (h : s.lastByte = true) (k : Nat) :
    (perturb s.message k).take (s.idx.toNat + 1) = perturb s.message k := by
  rw [State.lastByte_iff] at h
  exact List.take_of_length_le (by simp [h])

/-- FB holds byte 0 of the message after the first step (spec/42_hash64.md R177). -/
theorem State.capturedFb_eq {s : State} {b : Byte} (hb : (perturb s.message s.iter.toNat)[s.idx.toNat]? = some b)
    (hfb : s.idx ≠ 0#32 ∨ s.iter ≠ 0#3 → s.message.head? = some s.fb) : s.message.head? = some (s.capturedFb b) := by
  unfold State.capturedFb
  split
  · next h =>
    obtain ⟨h0, hit⟩ := h
    rw [h0, hit] at hb
    rw [List.head?_eq_getElem?, ← hb]
    exact congrArg (·[0]?) (perturb_zero _).symm
  · next h => exact hfb (Decidable.not_and_iff_not_or_not.1 h)

end Sys2Proof.Machine
end

section
/-! SUPPORT. An engine step on the byte due keeps the progress of its operation, and the last step of a HASH64 leaves
hash64 of the message (spec/42_hash64.md R186). -/

namespace Sys2Proof.Machine

variable {op : Op} {s x : State} {b : Byte}

/-- A HASH8 step keeps ACC the byte hash of what has been consumed (spec/41_byte_hash.md R147). -/
theorem State.Operating.progress_engineStep_h8 (h : s.Operating .h8 x) (hlen : s.len.toNat < 2 ^ s.cfg.lw)
    (hl : x.lastStep = false) (hi : x.MessageIntact) (hp : x.Progress) (hb : x.dueByte = some b) :
    (x.engineStep b).Progress := by
  have hy := h.engineStep hlen hl b
  have hbyte : x.lastByte = false := State.lastStep_h8 h.op ▸ hl
  have hacc := (State.progress_h8 h.op).1 hp hi
  rw [State.progress_h8 hy.op, State.message_engineStep, State.engineStep_h8 h.op, State.stepHash8_eq, hbyte,
    if_neg Bool.false_ne_true]
  intro _
  rw [State.dueByte_of_h8 h.op] at hb
  show (x.setAcc (x.fold b)).acc = byteHash (x.message.take x.nextIdx.toNat) x.cfg.table
  rw [State.acc_setAcc, (h.nextIdx_toNat hlen hbyte).1, State.fold_eq hacc hb]

/-- A step of the sequential HASH64 keeps FB, ACC and LANES at what the bytes consumed make of them, across the end of an
iteration too (spec/42_hash64.md R175–R178). -/
theorem State.Operating.progress_engineStep_one (h : s.Operating .h64 x) (he : x.cfg.engines = .one)
    (hlen : s.len.toNat < 2 ^ s.cfg.lw) (hl : x.lastStep = false) (hi : x.MessageIntact) (hp : x.Progress)
    (hb : x.dueByte = some b) : (x.engineStep b).Progress := by
  have hy := h.engineStep hlen hl b
  obtain ⟨hfb, hacc, hlanes⟩ := (State.progress_h64_one h.op he).1 hp hi
  rw [State.dueByte_of_one h.op he] at hb
  have hfb' := State.capturedFb_eq hb hfb
  have hfold := State.fold_eq hacc hb
  rw [State.progress_h64_one hy.op (by rw [hy.cfg, ← h.cfg, he]), State.message_engineStep,
    State.engineStep_h64_one h.op he, State.stepHash64Seq_eq]
  intro _
  cases hbyte : x.lastByte with
  | false =>
    rw [if_neg Bool.false_ne_true]
    refine ⟨fun _ => hfb', ?_, hlanes⟩
    show (x.setAcc (x.fold b)).acc = byteHash ((perturb x.message x.iter.toNat).take x.nextIdx.toNat) x.cfg.table
    rw [State.acc_setAcc, (h.nextIdx_toNat hlen hbyte).1, hfold]
  | true =>
    have hiter : x.iter ≠ 7#3 := by simpa [State.lastStep_h64_one h.op he, hbyte] using hl
    have hnext : (x.iter + 1#3).toNat = x.iter.toNat + 1 := State.iter_succ_toNat hiter
    rw [State.take_perturb_of_lastByte hbyte] at hfold
    rw [if_pos rfl, if_neg hiter]
    refine ⟨fun _ => hfb', State.acc_setAcc x 0#8, fun k hk => ?_⟩
    show laneOf (setLane x.lanes x.iter.toNat (x.fold b)) k = byteHash (perturb x.message k) x.cfg.table
    have hk : k < x.iter.toNat + 1 := hnext ▸ hk
    rw [laneOf_setLane _ _ (by omega) (by omega)]
    split
    · next heq => rw [hfold, heq]
    · next hne => exact hlanes k (by omega)

/-- A step of the parallel HASH64 keeps each lane the byte hash of what it has consumed (spec/42_hash64.md R180). -/
theorem State.Operating.progress_engineStep_eight (h : s.Operating .h64 x) (he : x.cfg.engines = .eight)
    (hlen : s.len.toNat < 2 ^ s.cfg.lw) (hl : x.lastStep = false) (hi : x.MessageIntact) (hp : x.Progress)
    (hb : x.dueByte = some b) : (x.engineStep b).Progress := by
  have hy := h.engineStep hlen hl b
  have hbyte : x.lastByte = false := State.lastStep_h64_eight he ▸ hl
  have hacc := (State.progress_h64_eight h.op he).1 hp hi
  rw [State.progress_h64_eight hy.op (by rw [hy.cfg, ← h.cfg, he]), State.message_engineStep,
    State.engineStep_h64_eight h.op he, State.stepHash64Par_eq, hbyte, if_neg Bool.false_ne_true]
  intro _ k hk
  rw [State.dueByte_of_eight he] at hb
  show (x.foldLanes b)[k] = byteHash ((perturb x.message k).take x.nextIdx.toNat) x.cfg.table
  rw [(h.nextIdx_toNat hlen hbyte).1, State.foldLanes_eq hb hk (hacc k hk)]

/-- A step that is not the last, on the byte due, keeps the progress of its operation. -/
theorem State.Operating.progress_engineStep (h : s.Operating op x) (hlen : s.len.toNat < 2 ^ s.cfg.lw)
    (hl : x.lastStep = false) (hi : x.MessageIntact) (hp : x.Progress) (hb : x.dueByte = some b) :
    (x.engineStep b).Progress := by
  cases op with
  | none => exact absurd h.op ((State.busy_iff x).1 h.busy)
  | h8 => exact h.progress_engineStep_h8 hlen hl hi hp hb
  | h64 =>
    cases he : x.cfg.engines with
    | one => exact h.progress_engineStep_one he hlen hl hi hp hb
    | eight => exact h.progress_engineStep_eight he hlen hl hi hp hb

/-- The last step of a HASH64 on the byte due leaves hash64 of the message, in either organisation (spec/42_hash64.md
R179, R181, R186). -/
theorem State.hash64_engineStep (ho : x.op = .h64) (hl : x.lastStep = true) (hi : x.MessageIntact) (hp : x.Progress)
    (hb : x.dueByte = some b) : (x.engineStep b).hash64 = Machine.hash64 x.message x.cfg.table := by
  apply eq_of_laneOf_eq
  intro k hk
  rw [laneOf_hash64 _ _ hk]
  cases he : x.cfg.engines with
  | one =>
    rw [State.lastStep_h64_one ho he, Bool.and_eq_true, beq_iff_eq] at hl
    obtain ⟨hbyte, hiter⟩ := hl
    obtain ⟨-, hacc, hlanes⟩ := (State.progress_h64_one ho he).1 hp hi
    rw [State.dueByte_of_one ho he] at hb
    have hfold := State.fold_eq hacc hb
    rw [State.take_perturb_of_lastByte hbyte, hiter] at hfold
    rw [State.engineStep_h64_one ho he, State.stepHash64Seq_eq, if_pos hbyte, if_pos hiter]
    show laneOf (x.fold b ++ x.lanes.extractLsb' 0 56) k = _
    rw [laneOf_append_low _ _ hk]
    split
    · next h7 => rw [hfold, h7]; rfl
    · next h7 =>
      have hk7 : k < 7 := by omega
      exact hlanes k (hiter ▸ hk7)
  | eight =>
    have hbyte : x.lastByte = true := State.lastStep_h64_eight he ▸ hl
    have hacc := (State.progress_h64_eight ho he).1 hp hi k hk
    rw [State.dueByte_of_eight he] at hb
    rw [State.engineStep_h64_eight ho he, State.stepHash64Par_eq, if_pos hbyte]
    show laneOf (packLanes (x.foldLanes b)) k = _
    rw [laneOf_packLanes _ _ hk, State.foldLanes_eq hb hk hacc, State.take_perturb_of_lastByte hbyte]

end Sys2Proof.Machine
end

section
/-! SUPPORT. Runs of an operation: cycle by cycle to its end, in any environment that keeps the duty, and in a prompt one
(spec/70_reset_and_hazards.md R270, R274, R275). -/

namespace Sys2Proof.Machine

/-! ### Induction along a run -/

theorem runs_succ {k : Nat} {s t : State} (h : step s = .next t) : runs (k + 1) s = runs k t := by
  simp only [runs, h]

/-- A condition on the inputs to come, which the empty cycle meets too, holds of the coming one. -/
theorem State.nextCycle_of_take {P : Cycle → Prop} {s : State} {k : Nat} (h : ∀ c ∈ s.inputs.take (k + 1), P c)
    (h0 : P {}) : P s.nextCycle := by
  unfold State.nextCycle
  cases hi : s.inputs with
  | nil => exact h0
  | cons c cs => exact h c (by simp [hi])

/-- What holds of the coming cycle and of the `k` after it holds of the next `k + 1`. -/
theorem State.forall_take_inputs {P : Cycle → Prop} {s : State} {k : Nat} (h0 : P s.nextCycle)
    (h : ∀ c ∈ s.popInput.inputs.take k, P c) : ∀ c ∈ s.inputs.take (k + 1), P c := by
  cases hi : s.inputs with
  | nil => simp
  | cons c cs =>
    rw [List.take_succ_cons, List.forall_mem_cons]
    exact ⟨by simpa [State.nextCycle, hi] using h0, by simpa [hi] using h⟩

theorem step_inputs_take {P : Cycle → Prop} {s t : State} {k : Nat} (hs : step s = .next t)
    (h : ∀ c ∈ s.inputs.take (k + 1), P c) : ∀ c ∈ t.inputs.take k, P c := by
  intro c hc
  rw [step_inputs hs] at hc
  refine h c ?_
  cases hi : s.inputs with
  | nil => simp [hi] at hc
  | cons c' cs => rw [hi] at hc; exact List.mem_cons_of_mem _ hc

/-- A run of a busy core: if each cycle with an input of kind `P` keeps `Inv` while the operation runs on, and leaves `Q`
when the operation ends, then a run that ends with the operation leaves `Q`. -/
theorem runs_to_finish {P : Cycle → Prop} {Inv Q : State → Prop} (h0 : P {}) (hbusy : ∀ s, Inv s → s.busy = true)
    (hstep : ∀ s t, Inv s → P s.nextCycle → step s = .next t → (t.busy = true → Inv t) ∧ (t.busy = false → Q t)) :
    ∀ {k : Nat} {s t : State}, Inv s → (∀ c ∈ s.inputs.take k, P c) →
      (∀ j u, j < k → runs j s = some u → u.busy = true) → runs k s = some t → t.busy = false → Q t := by
  intro k
  induction k with
  | zero =>
    intro s t hs _ _ hr ht
    injection hr with hr
    rw [← hr, hbusy s hs] at ht
    cases ht
  | succ k ih =>
    intro s t hs hin hb hr ht
    obtain ⟨u, hu⟩ := exists_step_eq_next s
    rw [runs_succ hu] at hr
    obtain ⟨hInv, hQ⟩ := hstep s u hs (State.nextCycle_of_take hin h0) hu
    cases hub : u.busy with
    | true =>
      refine ih (hInv hub) (step_inputs_take hu hin) (fun j v hj hv => ?_) hr ht
      exact hb (j + 1) v (by omega) (by rw [runs_succ hu, hv])
    | false =>
      cases k with
      | zero => injection hr with hr; exact hr ▸ hQ hub
      | succ k =>
        have hub' := hb 1 u (by omega) (by rw [runs_succ hu]; rfl)
        exact nomatch hub.symm.trans hub'

/-! ### One cycle of an operation -/

/-- What a cycle makes of a running operation: it waits, it takes a step and goes on, or it takes its last step. -/
theorem State.Operating.step {op : Op} {s u t : State} (h : s.Operating op u) (hlen : s.len.toNat < 2 ^ s.cfg.lw)
    (hr : u.nextCycle.rst = false) (ht : step u = .next t) :
    (u.stepsIn u.nextCycle = false ∧ s.Operating op t ∧ t.stepsDone = u.stepsDone) ∨
    (u.stepsIn u.nextCycle = true ∧ s.Operating op t ∧ t.stepsDone = u.stepsDone + 1) ∨
    (u.stepsIn u.nextCycle = true ∧ t.busy = false ∧ u.stepsDone + 1 = stepCount op s.cfg.engines s.len.toNat) := by
  obtain ⟨x, hx, -, -, hcase⟩ := step_of_busy h.busy hr ht
  have hox := h.sameEngine hx
  have hcount : x.stepsDone = u.stepsDone := hx.stepsDone
  obtain ⟨hs, rfl⟩ | ⟨hs, b, -, rfl⟩ := hcase
  · exact .inl ⟨hs, hox, hcount⟩
  · cases hl : x.lastStep with
    | false =>
      exact .inr (.inl ⟨hs, hox.engineStep hlen hl b, by rw [hox.stepsDone_engineStep hlen hl b, hcount]⟩)
    | true =>
      refine .inr (.inr ⟨hs, ?_, by rw [← hcount, hox.stepsDone_of_lastStep hl]⟩)
      rw [State.not_busy_iff, State.engineStep_op_of_lastStep hl]

/-- A cycle that leaves the message alone keeps a HASH64 that runs on at work on it, and one that ends has computed
hash64 of it (spec/42_hash64.md R186). -/
theorem State.OnMessage.step_hash64 {s u t : State} (h : s.Operating .h64 u) (hm : s.OnMessage u)
    (hlen : s.len.toNat < 2 ^ s.cfg.lw) (hr : u.nextCycle.rst = false) (hl : s.LeavesMessage u.nextCycle)
    (ht : step u = .next t) :
    (t.busy = true → s.Operating .h64 t ∧ s.OnMessage t) ∧
      (t.busy = false → t.hash64 = Machine.hash64 s.message s.cfg.table) := by
  obtain ⟨x, hx, hmem, hdist, hcase⟩ := step_of_busy h.busy hr ht
  have hox := h.sameEngine hx
  have hlu : u.LeavesMessage u.nextCycle := (State.leavesMessage_congr h.cfg h.base h.len _).2 hl
  have hmx := hm.of_stores h.busy hlu hx hmem hdist
  obtain ⟨-, rfl⟩ | ⟨hs, b, hb, rfl⟩ := hcase
  · exact ⟨fun _ => ⟨hox, hmx⟩, fun hn => nomatch hox.busy.symm.trans hn⟩
  · rw [State.consumed_eq_dueByte h.busy hm.progress hm.intact hlu h.idx_lt hs,
      ← hx.dueByte (hmx.message.trans hm.message.symm)] at hb
    cases hlast : x.lastStep with
    | false =>
      have hoy := hox.engineStep hlen hlast b
      have hmy : s.OnMessage (x.engineStep b) :=
        ⟨(x.message_engineStep b).trans hmx.message, (x.messageIntact_engineStep b).2 hmx.intact,
          hox.progress_engineStep hlen hlast hmx.intact hmx.progress hb⟩
      exact ⟨fun _ => ⟨hoy, hmy⟩, fun hn => nomatch hoy.busy.symm.trans hn⟩
    | true =>
      refine ⟨fun hn => absurd (State.engineStep_op_of_lastStep hlast b) ((State.busy_iff _).1 hn), fun _ => ?_⟩
      rw [State.hash64_engineStep hox.op hlast hmx.intact hmx.progress hb, hmx.message, hox.cfg]

/-! ### The cycle of acceptance -/

/-- An accepted HASH64 stands before its first step, with a whole message before it (spec/42_hash64.md R173). -/
theorem State.startHash64_of_idle {s : State} (hb : s.busy = false) (hn : s.len ≠ 0#32) :
    s.Operating .h64 s.startHash64 ∧ s.startHash64.stepsDone = 0 ∧ s.OnMessage s.startHash64 := by
  have hpos : 0 < s.len.toNat := Nat.pos_of_ne_zero fun h => hn (BitVec.eq_of_toNat_eq h)
  rw [State.startHash64_idle hb, if_neg hn]
  refine ⟨⟨rfl, rfl, rfl, rfl, rfl, hpos⟩, ?_, rfl, fun _ _ => List.not_mem_nil, ?_⟩
  · unfold State.stepsDone
    split <;> simp
  · cases he : s.cfg.engines with
    | one =>
      refine (State.progress_h64_one ?_ ?_).2 fun _ => ⟨?_, State.acc_setAcc s 0#8, ?_⟩
      · rfl
      · exact he
      · exact fun h => absurd h (by simp)
      · exact fun k hk => absurd hk (Nat.not_lt_zero k)
    | eight =>
      refine (State.progress_h64_eight ?_ ?_).2 fun _ k hk => Vector.getElem_replicate hk
      · rfl
      · exact he

/-- The cycle that accepts a HASH64 with LEN ≥ 1 leaves it before its first step, and at work on the message if no write
of the cycle goes there (spec/42_hash64.md R173, spec/70_reset_and_hazards.md R270). -/
theorem operating_of_accepted_hash64 {s t : State} (ha : s.acceptsIn s.nextCycle = true)
    (hc : s.nextCycle.hostIs isHash64 = true) (hn : s.len ≠ 0#32) (h : step s = .next t) :
    s.Operating .h64 t ∧ t.stepsDone = 0 ∧ (s.LeavesMessage s.nextCycle → s.OnMessage t) := by
  obtain ⟨hb, rfl⟩ := step_of_accepted_hash64 ha hc h
  obtain ⟨ho, hcount, hm⟩ := State.startHash64_of_idle (s := s.popInput) hb hn
  have hx := s.popInput.startHash64.sameEngine_platformStores s.nextCycle.stores
  have hot := ho.sameEngine hx
  refine ⟨⟨hot.op, hot.busy, hot.cfg, hot.base, hot.len, hot.idx_lt⟩, hx.stepsDone.trans hcount, fun hl => ?_⟩
  have hmt := hm.of_stores ho.busy ((State.leavesMessage_congr ho.cfg ho.base ho.len _).2 hl) hx rfl rfl
  exact ⟨hmt.message, hmt.intact, hmt.progress⟩

/-! ### The result of a HASH64 in any environment that keeps the duty -/

/-- A HASH64 that ends leaves hash64 of the message, in either organisation, if no other agent wrote a byte of it
(spec/42_hash64.md R186). -/
theorem OperationRun.hash64_eq {k : Nat} {s t : State} (hw : s.Wf) (h : OperationRun isHash64 k s t)
    (hd : s.KeepsDuty k) (ht : t.busy = false) : t.hash64 = hash64 s.message s.cfg.table := by
  have hin : ∀ c ∈ s.inputs.take (k + 1), c.rst = false ∧ s.LeavesMessage c :=
    fun c hc => ⟨h.no_reset c hc, hd c hc⟩
  have hempty : ({} : Cycle).rst = false ∧ s.LeavesMessage {} := ⟨rfl, s.leavesMessage_of_no_stores rfl⟩
  obtain ⟨u, hu⟩ := exists_step_eq_next s
  obtain ⟨ho, -, hm⟩ := operating_of_accepted_hash64 h.accepted h.command h.nonempty hu
  refine runs_to_finish (Inv := fun u => s.Operating .h64 u ∧ s.OnMessage u) hempty (fun _ ⟨ho, _⟩ => ho.busy)
    (fun _ _ ⟨ho, hm⟩ ⟨hr, hl⟩ hvw => hm.step_hash64 ho hw.len_lt hr hl hvw)
    ⟨ho, hm (State.nextCycle_of_take hin hempty).2⟩ (step_inputs_take hu hin) (fun j v hj hv => ?_)
    (by rw [← runs_succ hu]; exact h.ends_in) ht
  exact h.busy_until (j + 1) v (by omega) (by omega) (by rw [runs_succ hu, hv])

/-! ### A prompt environment -/

theorem Cycle.prompt_iff {c : Cycle} :
    c.prompt = true ↔ c.rst = false ∧ c.stores = [] ∧ c.ack = true ∧ c.steerWait = false := by
  simp [Cycle.prompt, and_assoc]

/-- In a prompt cycle a running operation takes a step (spec/70_reset_and_hazards.md R274; log entries 9, 10). -/
theorem State.stepsIn_of_prompt {s : State} (hb : s.busy = true) {c : Cycle} (hc : c.prompt = true) :
    s.stepsIn c = true := by
  obtain ⟨hr, -, ha, hw⟩ := Cycle.prompt_iff.1 hc
  simp [State.stepsIn, hr, hb, ha, hw]

theorem State.prompt_of_promptFor {s : State} {n : Nat} (h : s.promptFor n = true) :
    ∀ c ∈ s.inputs.take n, c.prompt = true :=
  List.all_eq_true.1 (Bool.and_eq_true_iff.1 h).2

theorem State.promptFor_succ {s : State} {n : Nat} (h : s.promptFor (n + 1) = true) :
    s.nextCycle.prompt = true ∧ s.popInput.promptFor n = true := by
  cases hi : s.inputs with
  | nil => simp [State.promptFor, hi] at h
  | cons c cs => simpa [State.promptFor, State.nextCycle, State.popInput, hi, and_left_comm] using h

/-- In a prompt environment a running operation takes a step in each cycle, and ends with the last of its steps. -/
theorem State.Operating.run_of_prompt {op : Op} {s : State} (hlen : s.len.toNat < 2 ^ s.cfg.lw) {r : Nat} :
    ∀ {u : State}, s.Operating op u → u.stepsDone + r = stepCount op s.cfg.engines s.len.toNat →
      u.promptFor r = true →
      ∃ t, runs r u = some t ∧ t.busy = false ∧ ∀ j v, j < r → runs j u = some v → v.busy = true := by
  induction r with
  | zero => exact fun h hcount _ => absurd hcount (Nat.ne_of_lt h.stepsDone_lt)
  | succ r ih =>
    intro u h hcount hp
    obtain ⟨hc, htail⟩ := State.promptFor_succ hp
    obtain ⟨v, hv⟩ := exists_step_eq_next u
    have hvp : v.promptFor r = true := by
      rw [State.promptFor, step_inputs hv]
      exact htail
    have hsteps := State.stepsIn_of_prompt h.busy hc
    obtain ⟨hs, -⟩ | ⟨-, ho, hdone⟩ | ⟨-, hidle, hdone⟩ := h.step hlen (Cycle.prompt_iff.1 hc).1 hv
    · rw [hsteps] at hs; cases hs
    · obtain ⟨t, hr, ht, hbusy⟩ := ih ho (by omega) hvp
      refine ⟨t, by rw [runs_succ hv, hr], ht, fun j w hj hw => ?_⟩
      cases j with
      | zero => injection hw with hw; exact hw ▸ h.busy
      | succ j => exact hbusy j w (by omega) (by rw [← runs_succ hv, hw])
    · obtain rfl : r = 0 := by omega
      refine ⟨v, by rw [runs_succ hv]; rfl, hidle, fun j w hj hw => ?_⟩
      obtain rfl : j = 0 := by omega
      injection hw with hw
      exact hw ▸ h.busy

/-- A HASH64 accepted in a prompt environment runs for as many cycles as it has steps, and its duty is kept
(spec/42_hash64.md R185; log entries 8, 9, 10). -/
theorem exists_operationRun_hash64_of_prompt {s : State} (hw : s.Wf) (ha : s.acceptsIn s.nextCycle = true)
    (hc : s.nextCycle.hostIs isHash64 = true) (hn : s.len ≠ 0#32) (hst : s.nextCycle.stores = [])
    (hp : s.popInput.promptFor (stepCount .h64 s.cfg.engines s.len.toNat) = true) :
    ∃ t, OperationRun isHash64 (stepCount .h64 s.cfg.engines s.len.toNat) s t ∧
      s.KeepsDuty (stepCount .h64 s.cfg.engines s.len.toNat) ∧ t.busy = false := by
  obtain ⟨u, hu⟩ := exists_step_eq_next s
  obtain ⟨ho, hcount, -⟩ := operating_of_accepted_hash64 ha hc hn hu
  have hup : u.promptFor (stepCount .h64 s.cfg.engines s.len.toNat) = true := by
    rw [State.promptFor, step_inputs hu]
    exact hp
  obtain ⟨t, hr, ht, hbusy⟩ := ho.run_of_prompt hw.len_lt (by omega) hup
  obtain ⟨hr0, -, -⟩ := State.acceptsIn_iff.1 ha
  have hin : ∀ c ∈ s.inputs.take (stepCount .h64 s.cfg.engines s.len.toNat + 1), c.rst = false ∧ c.stores = [] := by
    refine State.forall_take_inputs ⟨hr0, hst⟩ fun c h => ?_
    obtain ⟨hrst, hstores, -⟩ := Cycle.prompt_iff.1 (State.prompt_of_promptFor hp c h)
    exact ⟨hrst, hstores⟩
  refine ⟨t, ⟨ha, hc, hn, fun c h => (hin c h).1, fun j v h1 hj hv => ?_, by rw [runs_succ hu, hr]⟩,
    fun c h => s.leavesMessage_of_no_stores (hin c h).2, ht⟩
  cases j with
  | zero => omega
  | succ j => exact hbusy j v (by omega) (by rw [← runs_succ hu, hv])

/-- Settles O52: each organisation leaves hash64 of the message at the end of every run that keeps the duty, and a prompt
environment gives such runs of 8n and n cycles. -/
theorem sequentialAndParallelAgree : Obligations.SequentialAndParallelAgree := by
  intro s s' hw hw' he he' htab hmsg
  have hagree : ∀ (k k' : Nat) (t t' : State), OperationRun isHash64 k s t → OperationRun isHash64 k' s' t' →
      s.KeepsDuty k → s'.KeepsDuty k' → t.busy = false → t'.busy = false →
      t.hash64 = t'.hash64 ∧ t.hash64 = hash64 s.message s.cfg.table := by
    intro k k' t t' hr hr' hd hd' ht ht'
    have h := hr.hash64_eq hw hd ht
    have h' := hr'.hash64_eq hw' hd' ht'
    rw [← hmsg, ← htab] at h'
    exact ⟨h.trans h'.symm, h⟩
  refine ⟨hagree, fun hn ha hc hst ha' hc' hst' hp hp' => ?_⟩
  have hlen : s.len = s'.len := by
    apply BitVec.eq_of_toNat_eq
    rw [← s.message_length, ← s'.message_length, hmsg]
  obtain ⟨t, hr, hd, ht⟩ := exists_operationRun_hash64_of_prompt hw ha hc hn hst (by rw [he]; exact hp)
  obtain ⟨t', hr', hd', ht'⟩ :=
    exists_operationRun_hash64_of_prompt hw' ha' hc' (hlen ▸ hn) hst' (by rw [he']; exact hp')
  rw [he] at hr hd
  rw [he'] at hr' hd'
  exact ⟨t, t', hr.ends_in, hr'.ends_in, ht, ht', (hagree _ _ t t' hr hr' hd hd' ht ht').1⟩

end Sys2Proof.Machine
end

section
/-! SUPPORT. Each part of a clock cycle keeps the well-formed states (spec/10_state.md R24, R25, R33, R39, R40). -/

namespace Sys2Proof.Machine

/-! ### The host access -/

section
variable {s : State}

theorem State.Wf.returnWord (h : s.Wf) (w : Word) : (s.returnWord w).Wf := { h with }

theorem State.Wf.clearFlags (h : s.Wf) : s.clearFlags.Wf :=
  { h with
    not_busy_and_done := fun _ => rfl
    empty_is_done := fun he => he }

theorem State.Wf.raise_cmd (h : s.Wf) : (s.raise .cmd).Wf := { h with }

theorem State.Wf.raise_busy (h : s.Wf) : (s.raise .busy).Wf := { h with }

/-- No request is outstanding while no operation runs (spec/20_memory.md R62). -/
theorem State.Wf.rdpend_of_idle (h : s.Wf) (hb : s.busy = false) : s.rdpend = false := by
  rw [Bool.eq_false_iff]
  intro hp
  have hn := h.pending_is_needed hp
  simp [State.readNeeded, hb] at hn

/-- An idle state may have any operands of AW and LW bits. -/
theorem State.Wf.withOperands (h : s.Wf) (hb : s.busy = false) {b l : Word} (hbase : b.toNat < 2 ^ s.cfg.aw)
    (hlen : l.toNat < 2 ^ s.cfg.lw) : State.Wf { s with base := b, len := l } :=
  { h with
    base_lt := hbase
    len_lt := hlen
    idx_in_message := fun hn => nomatch hb.symm.trans hn }

/-- An idle state stays well-formed when DONE rises, with or without ERR_EMPTY (spec/41_byte_hash.md R144,
spec/42_hash64.md R174). -/
theorem State.Wf.complete (h : s.Wf) (hb : s.busy = false) (v : Byte) (e : Bool) :
    State.Wf { s with done := true, errEmpty := e, hash8 := v } :=
  { h with
    not_busy_and_done := fun hn => nomatch hb.symm.trans hn
    empty_is_done := fun _ => rfl }

/-- May `a` stand in ACCV? With ENGINES = 1 there is nothing in lanes 1–7 (spec/10_state.md R45), as `Wf.one_engine`
says of ACCV itself. -/
def State.AllowsAccv (s : State) (a : Vector Byte 8) : Prop :=
  s.cfg.engines = .one → ∀ k (h : k < 8), 0 < k → a[k] = 0#8

/-- A write to ACC leaves lanes 1–7 alone. -/
theorem State.Wf.allowsAccv_set (h : s.Wf) (b : Byte) : s.AllowsAccv (s.accv.set 0 b) := by
  intro he k hk h0
  rw [Vector.getElem_set_ne _ _ (by omega)]
  exact h.one_engine he k hk h0

theorem State.Wf.startHash8 (h : s.Wf) : s.startHash8.Wf := by
  cases hb : s.busy with
  | true => rw [State.startHash8_busy hb]; exact h.raise_busy
  | false =>
    rw [State.startHash8_idle hb]
    split
    · exact h.complete hb 0#8 false
    · next hn =>
      exact
        { h with
          idx_lt := Nat.two_pow_pos _
          idx_in_message := fun _ => Nat.pos_of_ne_zero fun h0 => hn (BitVec.eq_of_toNat_eq h0)
          not_busy_and_done := fun _ => rfl
          empty_is_done := fun he => he
          pending_is_needed := fun hp => nomatch (h.rdpend_of_idle hb).symm.trans hp
          one_engine := h.allowsAccv_set 0#8 }

theorem State.Wf.startHash64 (h : s.Wf) : s.startHash64.Wf := by
  cases hb : s.busy with
  | true => rw [State.startHash64_busy hb]; exact h.raise_busy
  | false =>
    rw [State.startHash64_idle hb]
    split
    · exact h.complete hb s.hash8 true
    · next hn =>
      exact
        { h with
          idx_lt := Nat.two_pow_pos _
          idx_in_message := fun _ => Nat.pos_of_ne_zero fun h0 => hn (BitVec.eq_of_toNat_eq h0)
          not_busy_and_done := fun _ => rfl
          empty_is_done := fun he => he
          pending_is_needed := fun hp => nomatch (h.rdpend_of_idle hb).symm.trans hp
          one_engine := fun he => by
            simp only [if_pos (show s.cfg.engines = .one from he)]
            exact h.allowsAccv_set 0#8 he
          eight_engines := fun he => by
            obtain ⟨hl, -⟩ := h.eight_engines he
            exact ⟨by simp only [hl, ite_self], rfl⟩ }

/-- Every host access keeps the well-formed states. -/
theorem State.Wf.exec (h : s.Wf) {i : Instr} {t : State} (he : Machine.exec i s = .next t) : t.Wf := by
  obtain rfl | ⟨w, rfl⟩ | rfl | rfl | rfl | rfl | ⟨-, rfl⟩ | ⟨hb, d, rfl⟩ | ⟨hb, d, rfl⟩ := exec_cases he
  · exact h
  · exact h.returnWord w
  · exact h.clearFlags
  · exact h.raise_cmd
  · exact h.startHash8
  · exact h.startHash64
  · exact h.raise_busy
  · exact h.withOperands hb (keepLow_lt _ _) h.len_lt
  · exact h.withOperands hb h.base_lt (keepLow_lt _ _)

/-! ### The platform's writes -/

theorem State.Wf.platformStores (h : s.Wf) (l : List (Word × Byte)) : (s.platformStores l).Wf := by
  obtain ⟨hwf, hwithin⟩ := s.platformStores_mem l h.mem_wf h.mem_within
  obtain ⟨m, d, he⟩ := s.platformStores_eq l
  rw [he] at hwf hwithin ⊢
  exact { h with mem_wf := hwf, mem_within := hwithin }

/-! ### The engine -/

/-- `finish` keeps the well-formed states, whatever the results and the hidden registers of the last step are: DONE
rises as BUSY falls (spec/10_state.md R33, spec/41_byte_hash.md R150). -/
theorem State.Wf.finish (h : s.Wf) (hp : s.rdpend = false) {r8 : Byte} {r64 : Dword} {f : Byte} {a : Vector Byte 8}
    (ha : s.AllowsAccv a) :
    State.Wf { s with hash8 := r8, hash64 := r64, fb := f, accv := a, op := .none, done := true } :=
  { h with
    idx_in_message := nofun
    not_busy_and_done := nofun
    empty_is_done := fun _ => rfl
    pending_is_needed := fun hn => nomatch hp.symm.trans hn
    one_engine := ha }

/-- A step to another index of the message keeps the well-formed states. -/
theorem State.Wf.moveTo (h : s.Wf) (hp : s.rdpend = false) {i : Word} {f : Byte} {a : Vector Byte 8}
    (hi : i.toNat < 2 ^ s.cfg.lw) (him : i.toNat < s.len.toNat)
    (ha : s.AllowsAccv a) :
    State.Wf { s with fb := f, accv := a, idx := i } :=
  { h with
    idx_lt := hi
    idx_in_message := fun _ => him
    pending_is_needed := fun hn => nomatch hp.symm.trans hn
    one_engine := ha }

/-- Before the last byte the next index is one of the message (spec/41_byte_hash.md R148). -/
theorem State.Wf.nextIdx_lt (h : s.Wf) (hb : s.busy = true) (hl : s.lastByte = false) :
    s.nextIdx.toNat < s.len.toNat := by
  have ho : s.Operating s.op s := ⟨rfl, hb, rfl, rfl, rfl, h.idx_in_message hb⟩
  obtain ⟨hnext, hlt⟩ := ho.nextIdx_toNat h.len_lt hl
  rw [hnext]
  exact hlt

/-- A step of the accumulator that ends neither a byte-hash run nor an iteration. -/
theorem State.Wf.advance (h : s.Wf) (hp : s.rdpend = false) (hb : s.busy = true) (hl : ¬ s.lastByte = true) {f : Byte}
    {a : Vector Byte 8} (ha : s.AllowsAccv a) :
    State.Wf { s with fb := f, accv := a, idx := s.nextIdx } :=
  h.moveTo hp (keepLow_lt _ _) (h.nextIdx_lt hb (Bool.eq_false_iff.2 hl)) ha

theorem State.Wf.stepHash8 (h : s.Wf) (hp : s.rdpend = false) (hb : s.busy = true) (b : Byte) :
    (s.stepHash8 b).Wf := by
  rw [State.stepHash8_eq]
  split
  · exact h.finish hp (h.allowsAccv_set _)
  · next hl => exact h.advance hp hb hl (h.allowsAccv_set _)

theorem State.Wf.stepHash64Seq (h : s.Wf) (hp : s.rdpend = false) (hb : s.busy = true)
    (he : s.cfg.engines = .one) (b : Byte) : (s.stepHash64Seq b).Wf := by
  rw [State.stepHash64Seq_eq]
  split
  · split
    · exact h.finish hp (h.allowsAccv_set _)
    · have hidx := h.idx_in_message hb
      have hstart := h.moveTo hp (i := 0#32) (f := s.capturedFb b) (a := s.accv.set 0 0#8) (Nat.two_pow_pos _)
        (Nat.zero_lt_of_lt hidx) (h.allowsAccv_set 0#8)
      exact
        { hstart with
          pending_is_needed := fun hn => nomatch hp.symm.trans hn
          eight_engines := fun he' => nomatch he.symm.trans he' }
  · next hl => exact h.advance hp hb hl (h.allowsAccv_set _)

theorem State.Wf.stepHash64Par (h : s.Wf) (hp : s.rdpend = false) (hb : s.busy = true)
    (he : s.cfg.engines = .eight) (b : Byte) : (s.stepHash64Par b).Wf := by
  have ha : s.AllowsAccv (s.foldLanes b) :=
    fun he' => nomatch he.symm.trans he'
  rw [State.stepHash64Par_eq]
  split
  · exact h.finish hp ha
  · next hl => exact h.advance hp hb hl ha

/-- An engine step, taken with no request outstanding, keeps the well-formed states. -/
theorem State.Wf.engineStep (h : s.Wf) (hp : s.rdpend = false) (b : Byte) : (s.engineStep b).Wf := by
  cases ho : s.op with
  | none => simpa only [State.engineStep, ho] using h
  | h8 =>
    rw [State.engineStep_h8 ho]
    exact h.stepHash8 hp ((State.busy_iff s).2 (by simp [ho])) b
  | h64 =>
    have hb : s.busy = true := (State.busy_iff s).2 (by simp [ho])
    cases he : s.cfg.engines with
    | one => rw [State.engineStep_h64_one ho he]; exact h.stepHash64Seq hp hb he b
    | eight => rw [State.engineStep_h64_eight ho he]; exact h.stepHash64Par hp hb he b

theorem State.Wf.takeAnswer (h : s.Wf) : s.takeAnswer.Wf := { h with pending_is_needed := nofun }

theorem State.Wf.engineCycle (h : s.Wf) (c : Cycle) : (s.engineCycle c).Wf := by
  obtain ⟨hn, -, he⟩ | ⟨-, -, he⟩ | ⟨-, -, he⟩ | ⟨hn, -, he⟩ := s.engineCycle_cases c <;> rw [he]
  · exact { h with pending_is_needed := fun _ => hn }
  · exact h.takeAnswer.engineStep rfl _
  · exact h
  · exact h.engineStep (Bool.eq_false_iff.2 fun hp => nomatch hn.symm.trans (h.pending_is_needed hp)) _

/-! ### The cycle -/

theorem State.Wf.popInput (h : s.Wf) : s.popInput.Wf := { h with }

theorem State.Wf.afterHost (h : s.Wf) (wasBusy : Bool) (c : Cycle) : (s.afterHost wasBusy c).Wf := by
  unfold State.afterHost
  split
  · exact (h.platformStores _).engineCycle c
  · exact h.platformStores _

/-- Reset leaves every register at 0 and the memory to the platform (spec/70_reset_and_hazards.md R261, R262). -/
theorem State.Wf.coreReset (h : s.Wf) : s.coreReset.Wf :=
  { State.resetWith_wf h.legal with
    mem_wf := h.mem_wf
    mem_within := h.mem_within }

theorem State.Wf.resetCycle (h : s.Wf) (c : Cycle) : (s.resetCycle c).Wf := by
  unfold State.resetCycle
  split
  · exact (h.coreReset.platformStores _).returnWord _
  · exact h.coreReset.platformStores _

end

/-- Settles O45: the host access, the platform's writes, the engine and reset each keep the well-formed states. -/
theorem wellFormedStatesAreKept : Obligations.WellFormedStatesAreKept := by
  intro s t h hs
  obtain ⟨-, rfl⟩ | ⟨-, u, hu, rfl⟩ := step_cases hs
  · exact h.popInput.resetCycle _
  · obtain ⟨-, rfl⟩ | ⟨item, -, he⟩ := hu
    · exact h.popInput.afterHost _ _
    · exact (h.popInput.exec he).afterHost _ _

end Sys2Proof.Machine
end

section
/-! SUPPORT. What a host access does, by its bits alone (spec/30_encoding.md R90–R95). -/

namespace Sys2Proof.Machine

/-! ### The kinds of host access -/

/-- What a host access asks of the core. -/
inductive HostKind where
  /-- A read, a NOP, a write to a read-only register, or no access at all. -/
  | silent
  /-- A HASH8 command. -/
  | hash8
  /-- A HASH64 command. -/
  | hash64
  /-- A CLEAR command. -/
  | clear
  /-- A reserved command code. -/
  | reserved
  /-- A write to BASE or LEN. -/
  | operandWrite
  deriving DecidableEq

/-- The two start commands. -/
def HostKind.isStart (k : HostKind) : Bool := k == .hash8 || k == .hash64

/-- The kind of a command, by its OPC (spec/30_encoding.md R93). -/
def HostKind.ofOpc (opc : BitVec 3) : HostKind :=
  match opc.toNat with
  | 0 => .silent
  | 1 => .hash8
  | 2 => .hash64
  | 3 => .clear
  | _ => .reserved

/-- The kind of a host access. -/
def hostKind (item : HostItem) : HostKind :=
  match itemOpc item with
  | some opc => .ofOpc opc
  | none => if isOperandWrite item then .operandWrite else .silent

/-- The kind of a cycle's host access. -/
def Cycle.hostKind (c : Cycle) : HostKind := (c.host.map Machine.hostKind).getD .silent

/-- A write to CTRL is no write to BASE or LEN. -/
theorem isOperandWrite_of_itemOpc {item : HostItem} {opc : BitVec 3} (h : itemOpc item = some opc) :
    isOperandWrite item = false := by
  cases item with
  | command w => rfl
  | access code data =>
    simp only [itemOpc] at h
    split at h
    · next hc =>
      obtain ⟨-, hoff⟩ := Bool.and_eq_true_iff.1 hc
      rw [beq_iff_eq] at hoff
      simp only [isOperandWrite, hoff]
      exact Bool.and_false _
    · cases h

theorem hostKind_of_itemOpc {item : HostItem} {opc : BitVec 3} (h : itemOpc item = some opc) :
    hostKind item = .ofOpc opc := by
  simp only [hostKind, h]

theorem hostKind_of_itemOpc_none {item : HostItem} (h : itemOpc item = none) :
    hostKind item = if isOperandWrite item then .operandWrite else .silent := by
  simp only [hostKind, h]

/-- A test of the OPC written to CTRL is a test of the kind, if it agrees with one on the eight codes and no other
access passes either. -/
theorem test_itemOpc_eq {p : Option (BitVec 3) → Bool} {q : HostKind → Bool} (h : ∀ opc, p (some opc) = q (.ofOpc opc))
    (hp : p none = false) (hs : q .silent = false) (ho : q .operandWrite = false) (item : HostItem) :
    p (itemOpc item) = q (hostKind item) := by
  cases hi : itemOpc item with
  | some opc => rw [hostKind_of_itemOpc hi, h]
  | none =>
    rw [hostKind_of_itemOpc_none hi, hp]
    split
    · exact ho.symm
    · exact hs.symm

section
variable (item : HostItem)

theorem isHash8_eq : isHash8 item = (hostKind item == .hash8) :=
  test_itemOpc_eq (p := (· == some 1#3)) (q := (· == .hash8)) (by decide) rfl rfl rfl item

theorem isHash64_eq : isHash64 item = (hostKind item == .hash64) :=
  test_itemOpc_eq (p := (· == some 2#3)) (q := (· == .hash64)) (by decide) rfl rfl rfl item

theorem isClear_eq : isClear item = (hostKind item == .clear) :=
  test_itemOpc_eq (p := (· == some 3#3)) (q := (· == .clear)) (by decide) rfl rfl rfl item

theorem isReserved_eq : isReserved item = (hostKind item == .reserved) :=
  test_itemOpc_eq (p := Option.any fun opc => opc.getLsbD 2) (q := (· == .reserved)) (by decide) rfl rfl rfl item

theorem isOperandWrite_eq : isOperandWrite item = (hostKind item == .operandWrite) := by
  cases h : itemOpc item with
  | none => rw [hostKind_of_itemOpc_none h]; cases isOperandWrite item <;> rfl
  | some opc =>
    rw [isOperandWrite_of_itemOpc h, hostKind_of_itemOpc h]
    clear h; revert opc; decide

end

/-- A cycle's host access satisfies a test of kinds exactly if its kind passes; no access is of a silent kind. -/
theorem Cycle.hostIs_eq {p : HostItem → Bool} {q : HostKind → Bool} (h : ∀ item, p item = q (Machine.hostKind item))
    (hq : q .silent = false) (c : Cycle) : c.hostIs p = q c.hostKind := by
  unfold Cycle.hostIs Cycle.hostKind
  cases c.host with
  | none => exact hq.symm
  | some item => exact h item

section
variable (c : Cycle)

theorem Cycle.hostIs_isHash8 : c.hostIs isHash8 = (c.hostKind == .hash8) :=
  c.hostIs_eq (q := (· == .hash8)) isHash8_eq rfl

theorem Cycle.hostIs_isHash64 : c.hostIs isHash64 = (c.hostKind == .hash64) :=
  c.hostIs_eq (q := (· == .hash64)) isHash64_eq rfl

theorem Cycle.hostIs_isStart : c.hostIs isStart = c.hostKind.isStart :=
  c.hostIs_eq (fun item => by rw [isStart, isHash8_eq, isHash64_eq, HostKind.isStart]) rfl

theorem Cycle.hostIs_isClear : c.hostIs isClear = (c.hostKind == .clear) :=
  c.hostIs_eq (q := (· == .clear)) isClear_eq rfl

theorem Cycle.hostIs_isReserved : c.hostIs isReserved = (c.hostKind == .reserved) :=
  c.hostIs_eq (q := (· == .reserved)) isReserved_eq rfl

theorem Cycle.hostIs_isOperandWrite : c.hostIs isOperandWrite = (c.hostKind == .operandWrite) :=
  c.hostIs_eq (q := (· == .operandWrite)) isOperandWrite_eq rfl

end

/-! ### Reads -/

/-- The word a read of STATUS returns, from what the port shows (spec/10_state.md R31). -/
def HostView.statusWord (v : HostView) : Word :=
  0#23 ++ BitVec.ofBool v.par ++ 0#3 ++ BitVec.ofBool v.errBusy ++ BitVec.ofBool v.errCmd ++ BitVec.ofBool v.errEmpty
    ++ BitVec.ofBool v.done ++ BitVec.ofBool v.busy

/-- The word a read at a word offset returns, from what the port shows (spec/43_control.md R211–R218). -/
def HostView.wordAt (v : HostView) (off : BitVec 3) : Word :=
  match off.toNat with
  | 1 => v.statusWord
  | 2 => v.base
  | 3 => v.len
  | 4 => v.hash8.setWidth 32
  | 5 => v.hash64.extractLsb' 0 32
  | 6 => v.hash64.extractLsb' 32 32
  | _ => 0#32

/-- A read returns a word of what the port shows, and changes nothing else (spec/43_control.md R209–R218). -/
theorem exec_decodeRead (off : BitVec 3) (low : BitVec 2) (s : State) :
    exec (decodeRead off low) s = .next (s.returnWord (s.view.wordAt off)) := by
  unfold decodeRead HostView.wordAt
  generalize off.toNat = n
  match n with
  | 0 | 1 | 2 | 3 | 4 | 5 | 6 | _ + 7 => rfl

/-- Settles O60: the word a read returns is a matter of what the port shows, and a read changes nothing of that
(spec/10_state.md R48). -/
theorem hiddenStateIsNotObservable : Obligations.HiddenStateIsNotObservable := by
  intro s s' t t' code data hv hwe ht ht'
  have hread : decode (.access code data) = decodeRead (offOf code) (lowOf code) := by
    rw [decode, decodeAccess, weOf, hwe, if_neg Bool.false_ne_true]
  rw [hread, exec_decodeRead] at ht ht'
  injection ht with ht
  injection ht' with ht'
  subst ht ht'
  exact ⟨congrArg (HostView.wordAt · (offOf code)) hv, hv⟩

/-! ### The effect of each kind -/

/-- `t` is what an access of this kind makes of `s` (spec/43_control.md R200–R208). -/
def HostKind.Effect (s t : State) : HostKind → Prop
  | .silent => ∃ w, t = s.returnWord w
  | .hash8 => t = s.startHash8
  | .hash64 => t = s.startHash64
  | .clear => t = s.clearFlags
  | .reserved => t = s.raise .cmd
  | .operandWrite => ∃ b l, t = s.unlessBusy { s with base := b, len := l }

theorem issueCommand_effect (w : Word) (s : State) : (HostKind.ofOpc (opcOf w)).Effect s (s.issueCommand w) := by
  unfold HostKind.ofOpc State.issueCommand
  generalize (opcOf w).toNat = n
  match n with
  | 0 => exact ⟨s.hrdata, rfl⟩
  | 1 | 2 | 3 | _ + 4 => rfl

/-- A write beside CTRL writes an operand register, at offsets 2 and 3, or nothing (spec/43_control.md R206–R208). -/
theorem exec_decodeWrite_effect {off : BitVec 3} (h : off ≠ 0#3) (low : BitVec 2) (data : Word) (s : State) :
    ∃ t, exec (decodeWrite off low data) s = .next t ∧
      HostKind.Effect s t (if off == 2#3 || off == 3#3 then .operandWrite else .silent) := by
  obtain rfl | rfl | rfl | rfl | rfl | rfl | rfl :
      off = 1#3 ∨ off = 2#3 ∨ off = 3#3 ∨ off = 4#3 ∨ off = 5#3 ∨ off = 6#3 ∨ off = 7#3 := by
    revert off; decide
  · exact ⟨_, rfl, s.hrdata, rfl⟩
  · exact ⟨_, rfl, s.baseOperand data, s.len, rfl⟩
  · exact ⟨_, rfl, s.base, s.lenOperand data, rfl⟩
  all_goals exact ⟨_, rfl, s.hrdata, rfl⟩

/-- Every host access has the effect of its kind. -/
theorem exec_effect {item : HostItem} {s t : State} (h : exec (decode item) s = .next t) :
    (hostKind item).Effect s t := by
  cases hopc : itemOpc item with
  | some opc =>
    obtain ⟨w, rfl, he⟩ := exec_of_itemOpc hopc s
    rw [he] at h
    injection h with h
    rw [hostKind_of_itemOpc hopc, ← h]
    exact issueCommand_effect w s
  | none =>
    rw [hostKind_of_itemOpc_none hopc]
    cases item with
    | command w => cases hopc
    | access code data =>
      have hop : isOperandWrite (.access code data) = (weOf code && (offOf code == 2#3 || offOf code == 3#3)) := rfl
      rw [hop]
      cases hwe : weOf code with
      | false =>
        rw [decode, decodeAccess, hwe, if_neg Bool.false_ne_true, exec_decodeRead] at h
        injection h with h
        exact ⟨_, h.symm⟩
      | true =>
        have hoff : offOf code ≠ 0#3 := by
          intro h0
          have hctrl : itemOpc (.access code data) =
            if weOf code && offOf code == 0#3 then some (opcOf data) else none := rfl
          simp [hctrl, hwe, h0] at hopc
        obtain ⟨u, he, heff⟩ := exec_decodeWrite_effect hoff (lowOf code) data s
        rw [decode, decodeAccess, hwe, if_pos rfl, he] at h
        injection h with h
        exact h ▸ heff

end Sys2Proof.Machine
end

section
/-! SUPPORT. What the host port shows after each part of a clock cycle (spec/10_state.md R26, R27, R32–R36). -/

namespace Sys2Proof.Machine

/-! ### After the host access -/

/-- The test `==` of the kinds, the error flags and OP, for `simp` to evaluate; the model's files import no library that
has it. -/
theorem beq_eq_decide_eq {α : Type} [DecidableEq α] (a b : α) : (a == b) = decide (a = b) := rfl

/-- The flags and results shown after a host access of kind `k`, from what was shown before it: the set and clear points
of spec/10_state.md R32–R36 that are host accesses. -/
structure HostKind.Shows (k : HostKind) (v w : HostView) : Prop where
  busy : w.busy = (v.busy || (k.isStart && v.len != 0#32))
  done : w.done = (!(k == .clear) && if !v.busy && k.isStart then v.len == 0#32 else v.done)
  errEmpty : w.errEmpty =
    (!(k == .clear) && if !v.busy && k.isStart then k == .hash64 && v.len == 0#32 else v.errEmpty)
  errCmd : w.errCmd = (!(k == .clear) && (v.errCmd || k == .reserved))
  errBusy : w.errBusy = (!(k == .clear) && (v.errBusy || (v.busy && (k.isStart || k == .operandWrite))))
  hash8 : w.hash8 = if v.busy = false ∧ k = .hash8 ∧ v.len = 0#32 then 0#8 else v.hash8
  hash64 : w.hash64 = v.hash64

/-- Starts and operand writes while busy are refused (spec/10_state.md R36). -/
theorem State.raise_busy_shows {s : State} (hb : s.busy = true) {k : HostKind}
    (hk : k = .hash8 ∨ k = .hash64 ∨ k = .operandWrite) : k.Shows s.view (s.raise .busy).view := by
  obtain rfl | rfl | rfl := hk <;> constructor <;> simp [beq_eq_decide_eq, State.view, HostKind.isStart, hb]

theorem State.startHash8_shows (s : State) : HostKind.Shows .hash8 s.view s.startHash8.view := by
  cases hb : s.busy with
  | true => rw [State.startHash8_busy hb]; exact State.raise_busy_shows hb (by simp)
  | false =>
    rw [State.startHash8_idle hb]
    have ho := s.not_busy_iff.1 hb
    split
    · next hl => constructor <;> simp [beq_eq_decide_eq, State.view, HostKind.isStart, State.busy, ho, hl]
    · next hl => constructor <;> simp [bne, beq_eq_decide_eq, State.view, HostKind.isStart, State.busy, ho, hl]

theorem State.startHash64_shows (s : State) : HostKind.Shows .hash64 s.view s.startHash64.view := by
  cases hb : s.busy with
  | true => rw [State.startHash64_busy hb]; exact State.raise_busy_shows hb (by simp)
  | false =>
    rw [State.startHash64_idle hb]
    have ho := s.not_busy_iff.1 hb
    split
    · next hl => constructor <;> simp [beq_eq_decide_eq, State.view, HostKind.isStart, State.busy, ho, hl]
    · next hl => constructor <;> simp [bne, beq_eq_decide_eq, State.view, HostKind.isStart, State.busy, ho, hl]

theorem HostKind.Effect.shows {k : HostKind} {s u : State} (h : k.Effect s u) : k.Shows s.view u.view := by
  cases k with
  | hash8 => rw [show u = _ from h]; exact s.startHash8_shows
  | hash64 => rw [show u = _ from h]; exact s.startHash64_shows
  | silent =>
    obtain ⟨w, rfl⟩ := h
    constructor <;> simp [beq_eq_decide_eq, State.view, HostKind.isStart]
  | clear =>
    rw [show u = _ from h]
    constructor <;> simp [beq_eq_decide_eq, State.view, HostKind.isStart]
  | reserved =>
    rw [show u = _ from h]
    constructor <;> simp [beq_eq_decide_eq, State.view, HostKind.isStart]
  | operandWrite =>
    obtain ⟨b, l, rfl⟩ := h
    unfold State.unlessBusy
    split
    · next hb => exact State.raise_busy_shows hb (by simp)
    · next hb =>
      have ho := s.not_busy_iff.1 (Bool.eq_false_iff.2 hb)
      constructor <;> simp [beq_eq_decide_eq, State.view, HostKind.isStart, State.busy, ho]

/-! ### After the platform's writes and the engine -/

@[simp] theorem State.platformStores_view (s : State) (l : List (Word × Byte)) :
    (s.platformStores l).view = s.view := by
  obtain ⟨m, d, h⟩ := s.platformStores_eq l
  rw [h]
  rfl

/-- A step that is not the last changes nothing that the port shows: partial results are never seen
(spec/43_control.md R210). -/
theorem State.view_engineStep_of_not_lastStep {s : State} (hl : s.lastStep = false) (b : Byte) :
    (s.engineStep b).view = s.view := by
  cases ho : s.op with
  | none => simp only [State.engineStep, ho]
  | h8 =>
    rw [State.lastStep_h8 ho] at hl
    rw [State.engineStep_h8 ho, State.stepHash8_eq, hl, if_neg Bool.false_ne_true]
    rfl
  | h64 =>
    cases he : s.cfg.engines with
    | one =>
      rw [State.lastStep_h64_one ho he] at hl
      rw [State.engineStep_h64_one ho he, State.stepHash64Seq_eq]
      split
      · next hbyte =>
        rw [if_neg (by simpa [hbyte] using hl)]
        rfl
      · rfl
    | eight =>
      rw [State.lastStep_h64_eight he] at hl
      rw [State.engineStep_h64_eight ho he, State.stepHash64Par_eq, hl, if_neg Bool.false_ne_true]
      rfl

/-- `w` is what the port shows after the operation `op` has finished, from what it showed before: BUSY falls, DONE
rises, and the result register of the operation, and no other, is written (spec/10_state.md R26, R27, spec/41_byte_hash.md
R150). -/
def HostView.Finished (op : Op) (v w : HostView) : Prop :=
  ∃ r8 r64, w = { v with hash8 := r8, hash64 := r64, busy := false, done := true } ∧
    (op = .h8 ∨ r8 = v.hash8) ∧ (op = .h64 ∨ r64 = v.hash64)

/-- The last step shows the result (spec/41_byte_hash.md R149, spec/42_hash64.md R179, R181). -/
theorem State.finished_engineStep {s : State} (hb : s.busy = true) (hl : s.lastStep = true) (b : Byte) :
    HostView.Finished s.op s.view (s.engineStep b).view := by
  cases ho : s.op with
  | none => exact absurd ho ((State.busy_iff s).1 hb)
  | h8 =>
    rw [State.lastStep_h8 ho] at hl
    rw [State.engineStep_h8 ho, State.stepHash8_eq, if_pos hl]
    exact ⟨_, _, rfl, .inl rfl, .inr rfl⟩
  | h64 =>
    cases he : s.cfg.engines with
    | one =>
      rw [State.lastStep_h64_one ho he, Bool.and_eq_true, beq_iff_eq] at hl
      obtain ⟨hbyte, hiter⟩ := hl
      rw [State.engineStep_h64_one ho he, State.stepHash64Seq_eq, if_pos hbyte, if_pos hiter]
      exact ⟨_, _, rfl, .inr rfl, .inl rfl⟩
    | eight =>
      rw [State.lastStep_h64_eight he] at hl
      rw [State.engineStep_h64_eight ho he, State.stepHash64Par_eq, if_pos hl]
      exact ⟨_, _, rfl, .inr rfl, .inl rfl⟩

/-- `w` is what the port shows after the rest of a cycle in which the operation of `s` finishes or does not, from what
the host access left it to show. -/
def State.Concludes (s : State) (c : Cycle) (v w : HostView) : Prop :=
  (s.finishesIn c = false ∧ w = v) ∨ (s.finishesIn c = true ∧ HostView.Finished s.op v w)

/-- The engine's part of a cycle shows the end of the operation, or nothing. -/
theorem State.engineCycle_concludes {s : State} (hb : s.busy = true) {c : Cycle} (hr : c.rst = false) :
    s.Concludes c s.view (s.engineCycle c).view := by
  obtain ⟨r, n, ⟨hs, he⟩ | ⟨hs, he⟩⟩ := State.engineCycle_of_busy hb hr
  · exact .inl ⟨by rw [State.finishesIn, hs]; rfl, by rw [he]; rfl⟩
  · rw [he]
    have hf : s.finishesIn c = State.lastStep { s with rdpend := r, draws := n } := by
      rw [State.finishesIn, hs]; rfl
    cases hl : State.lastStep { s with rdpend := r, draws := n } with
    | false => exact .inl ⟨hf.trans hl, State.view_engineStep_of_not_lastStep hl _⟩
    | true => exact .inr ⟨hf.trans hl, State.finished_engineStep (s := { s with rdpend := r, draws := n }) hb hl _⟩

theorem State.SameEngine.finishesIn {s x : State} (h : s.SameEngine x) (c : Cycle) :
    x.finishesIn c = s.finishesIn c := by
  rw [State.finishesIn, State.finishesIn, h.stepsIn, h.lastStep]

theorem State.afterHost_concludes {s u : State} (hu : s.busy = true → s.SameEngine u) {c : Cycle}
    (hr : c.rst = false) : s.Concludes c u.view (u.afterHost s.busy c).view := by
  unfold State.afterHost
  cases hb : s.busy with
  | false =>
    refine .inl ⟨?_, u.platformStores_view _⟩
    simp [State.finishesIn, State.stepsIn, hb]
  | true =>
    have hx := u.sameEngine_platformStores c.stores
    have h := State.engineCycle_concludes ((hx.busy.trans (hu hb).busy).trans hb) hr
    rw [State.Concludes, hx.finishesIn, (hu hb).finishesIn, hx.op, (hu hb).op, State.platformStores_view] at h
    exact h

/-! ### After the cycle -/

/-- A host access while an operation runs changes nothing of the operation (spec/43_control.md R203, R207). -/
theorem sameEngine_of_exec {i : Instr} {s u : State} (hb : s.busy = true) (h : exec i s = .next u) :
    s.SameEngine u := by
  obtain ⟨d, ee, ec, eb, w, rfl, -, -⟩ := exec_busy h hb
  constructor <;> rfl

/-- What the port shows after a reset cycle (spec/70_reset_and_hazards.md R261). -/
theorem State.resetCycle_view (s : State) (c : Cycle) : (s.resetCycle c).view = (State.resetWith s.cfg).view := by
  obtain ⟨m, w, h⟩ := s.resetCycle_eq c
  rw [h]
  rfl

/-- A cycle resets what the port shows, or shows the effect of its host access and then of the operation's end
(spec/60_exceptions.md R237, spec/70_reset_and_hazards.md R261, R273). -/
theorem step_view {s t : State} (h : step s = .next t) :
    (s.nextCycle.rst = true ∧ t.view = (State.resetWith s.cfg).view) ∨
    (s.nextCycle.rst = false ∧ ∃ v, s.nextCycle.hostKind.Shows s.view v ∧ s.Concludes s.nextCycle v t.view) := by
  obtain ⟨hr, rfl⟩ | ⟨hr, u, hu, rfl⟩ := step_cases h
  · exact .inl ⟨hr, s.popInput.resetCycle_view _⟩
  · have heff : s.nextCycle.hostKind.Effect s.popInput u := by
      unfold Cycle.hostKind
      obtain ⟨hn, rfl⟩ | ⟨item, hi, he⟩ := hu
      · rw [hn]
        exact ⟨s.hrdata, rfl⟩
      · rw [hi]
        exact exec_effect he
    have hsame : s.busy = true → s.popInput.SameEngine u := by
      intro hb
      obtain ⟨-, rfl⟩ | ⟨item, -, he⟩ := hu
      · constructor <;> rfl
      · exact sameEngine_of_exec hb he
    exact .inr ⟨hr, u.view, heff.shows, State.afterHost_concludes (s := s.popInput) hsame hr⟩

end Sys2Proof.Machine
end

section
/-! SUPPORT. The flags and results that a cycle sets, clears and leaves (spec/10_state.md R26, R27, R32–R36, R49). -/

namespace Sys2Proof.Machine

/-- Bit 0 of STATUS is BUSY (spec/10_state.md R31). -/
theorem State.statusWord_bit0 (s : State) : s.statusWord.getLsbD 0 = s.busy := by
  rw [State.statusWord, BitVec.getLsbD_append]
  simp

/-- An operation finishes only in a cycle that begins with it running and is no reset cycle. -/
theorem State.busy_of_finishesIn {s : State} {c : Cycle} (h : s.finishesIn c = true) : s.busy = true := by
  simp only [State.finishesIn, State.stepsIn, Bool.and_eq_true] at h
  obtain ⟨⟨⟨-, hb⟩, -⟩, -⟩ := h
  exact hb

theorem State.acceptsIn_eq {s : State} {c : Cycle} (hr : c.rst = false) :
    s.acceptsIn c = (!s.busy && c.hostKind.isStart) := by
  rw [State.acceptsIn, hr, Cycle.hostIs_isStart, Bool.not_false, Bool.true_and]

/-- The operation's end leaves the error flags as the host access left them. -/
theorem State.Concludes.errors {s : State} {c : Cycle} {v w : HostView} (h : s.Concludes c v w) :
    w.errEmpty = v.errEmpty ∧ w.errCmd = v.errCmd ∧ w.errBusy = v.errBusy := by
  obtain ⟨-, rfl⟩ | ⟨-, _, _, rfl, -, -⟩ := h <;> exact ⟨rfl, rfl, rfl⟩

/-- BUSY falls where the operation ends, and DONE rises. -/
theorem State.Concludes.busy_done {s : State} {c : Cycle} {v w : HostView} (h : s.Concludes c v w) :
    w.busy = (v.busy && !s.finishesIn c) ∧ w.done = (s.finishesIn c || v.done) := by
  obtain ⟨hf, rfl⟩ | ⟨hf, _, _, rfl, -, -⟩ := h <;> simp [hf]

/-- Settles O26: the host access and the end of the operation set and clear BUSY. -/
theorem busyFlagLaw : Obligations.BusyFlagLaw := by
  intro s t h
  rw [State.statusWord_bit0, State.statusWord_bit0]
  refine ⟨t.busy_iff, ?_⟩
  obtain ⟨hr, hv⟩ | ⟨hr, v, hshow, hend⟩ := step_view h
  · rw [hr]
    exact congrArg HostView.busy hv
  · have hbusy : t.busy = (v.busy && !s.finishesIn s.nextCycle) := hend.busy_done.1
    have hstart : v.busy = (s.busy || (s.nextCycle.hostKind.isStart && s.len != 0#32)) := hshow.busy
    have hidle : s.busy = false → s.finishesIn s.nextCycle = false :=
      fun hb => Bool.eq_false_iff.2 fun hf => nomatch hb.symm.trans (State.busy_of_finishesIn hf)
    rw [hbusy, hstart, hr, Cycle.hostIs_isStart]
    cases hb : s.busy with
    | true => rfl
    | false => rw [hidle hb]; simp

/-- Settles O27: CLEAR and an accepted start clear DONE, the end of the operation sets it, and so does a start with
LEN = 0; that it is never 1 with BUSY is kept by every step (`wellFormedStatesAreKept`). -/
theorem doneFlagLaw : Obligations.DoneFlagLaw := by
  intro s t h
  refine ⟨?_, fun hw hb => (wellFormedStatesAreKept s t hw h).not_busy_and_done hb⟩
  obtain ⟨hr, hv⟩ | ⟨hr, v, hshow, hend⟩ := step_view h
  · rw [hr]
    exact congrArg HostView.done hv
  · rw [State.acceptsIn_eq hr, Cycle.hostIs_isClear, hr, Bool.not_false, Bool.true_and]
    exact hend.busy_done.2.trans (congrArg (s.finishesIn s.nextCycle || ·) hshow.done)

/-- Settles O28: a HASH64 with LEN = 0 sets ERR_EMPTY, every other accepted start, CLEAR and reset clear it. -/
theorem errEmptyFlagLaw : Obligations.ErrEmptyFlagLaw := by
  refine ⟨rfl, fun s t h => ?_⟩
  obtain ⟨hr, hv⟩ | ⟨hr, v, hshow, hend⟩ := step_view h
  · rw [hr]
    exact congrArg HostView.errEmpty hv
  · obtain ⟨hempty, -, -⟩ := hend.errors
    rw [State.acceptsIn_eq hr, Cycle.hostIs_isClear, Cycle.hostIs_isHash64, hr, Bool.not_false, Bool.true_and]
    exact hempty.trans hshow.errEmpty

/-- Settles O29: a reserved code sets ERR_CMD, and only CLEAR and reset clear it. -/
theorem errCmdFlagLaw : Obligations.ErrCmdFlagLaw := by
  refine ⟨rfl, fun s t h => ?_⟩
  obtain ⟨hr, hv⟩ | ⟨hr, v, hshow, hend⟩ := step_view h
  · rw [hr]
    exact congrArg HostView.errCmd hv
  · obtain ⟨-, hcmd, -⟩ := hend.errors
    rw [Cycle.hostIs_isClear, Cycle.hostIs_isReserved, hr, Bool.not_false, Bool.true_and]
    exact hcmd.trans hshow.errCmd

/-- Settles O30: a start or an operand write while busy sets ERR_BUSY, and only CLEAR and reset clear it. -/
theorem errBusyFlagLaw : Obligations.ErrBusyFlagLaw := by
  refine ⟨rfl, fun s t h => ?_⟩
  obtain ⟨hr, hv⟩ | ⟨hr, v, hshow, hend⟩ := step_view h
  · rw [hr]
    exact congrArg HostView.errBusy hv
  · obtain ⟨-, -, hbusy⟩ := hend.errors
    rw [Cycle.hostIs_isClear, Cycle.hostIs_isStart, Cycle.hostIs_isOperandWrite, hr, Bool.not_false, Bool.true_and]
    exact hbusy.trans hshow.errBusy

/-- Settles O37: the host access writes HASH8 only where a HASH8 with LEN = 0 completes at once, and the end of an
operation writes its own result register only. -/
theorem resultsChangeOnlyAtCompletion : Obligations.ResultsChangeOnlyAtCompletion := by
  intro s t h hr
  obtain ⟨hr', -⟩ | ⟨-, v, hshow, hend⟩ := step_view h
  · exact nomatch hr.symm.trans hr'
  obtain ⟨-, rfl⟩ | ⟨hf, r8, r64, hv, h8, h64⟩ := hend
  · refine ⟨fun hne => ?_, fun hne => absurd hshow.hash64 hne⟩
    by_cases hc : s.busy = false ∧ s.nextCycle.hostKind = .hash8 ∧ s.len = 0#32
    · obtain ⟨hb, hk, hl⟩ := hc
      have hbusy : t.busy = false := by simpa [State.view, hb, hl] using hshow.busy
      have hdone : t.done = true := by
        simpa [State.view, hb, hk, hl, HostKind.isStart, beq_eq_decide_eq] using hshow.done
      exact ⟨t.not_busy_iff.1 hbusy, hdone, .inr ⟨s.not_busy_iff.1 hb, by rw [Cycle.hostIs_isHash8, hk]; rfl, hl⟩⟩
    · exact absurd (hshow.hash8.trans (if_neg hc)) hne
  · have hv8 : v.hash8 = s.hash8 :=
      hshow.hash8.trans (if_neg fun ⟨hb, _⟩ => nomatch hb.symm.trans (State.busy_of_finishesIn hf))
    have hop : t.op = .none := t.not_busy_iff.1 (congrArg HostView.busy hv)
    have hdone : t.done = true := congrArg HostView.done hv
    have ht8 : t.hash8 = r8 := congrArg HostView.hash8 hv
    have ht64 : t.hash64 = r64 := congrArg HostView.hash64 hv
    exact ⟨fun hne => ⟨hop, hdone, .inl (h8.resolve_right fun h => hne (ht8.trans (h.trans hv8)))⟩,
      fun hne => ⟨hop, hdone, h64.resolve_right fun h => hne (ht64.trans (h.trans hshow.hash64))⟩⟩

/-- Settles O32: the reset values of spec/10_state.md R49, read off the reset state. -/
theorem resetStateHoldsTheSpecValues : Obligations.ResetStateHoldsTheSpecValues := by
  intro c
  have hstatus : (State.resetWith c).statusWord = if c.engines = .eight then 0x00000100#32 else 0x00000000#32 := by
    simp only [State.statusWord, State.par, State.busy, State.resetWith]
    cases c.engines <;> decide
  exact ⟨rfl, rfl, rfl, rfl, rfl, hstatus, rfl, rfl, rfl, rfl, rfl, rfl,
    fun _ hk => Vector.getElem_replicate hk, rfl, rfl, rfl, rfl⟩

end Sys2Proof.Machine
end

section
/-! SUPPORT. A run looked at from its start: what its cycles read and consume, cycle by cycle, and induction from the
acceptance of an operation on (spec/20_memory.md R62, spec/41_byte_hash.md R143, spec/70_reset_and_hazards.md R270). -/

namespace Sys2Proof.Machine

/-! ### The cycles of a run -/

theorem step_of_runs_succ {k : Nat} {s t : State} (h : runs (k + 1) s = some t) :
    ∃ u, runs k s = some u ∧ step u = .next t := by
  induction k generalizing s with
  | zero =>
    obtain ⟨v, hv⟩ := exists_step_eq_next s
    rw [runs_succ hv] at h
    injection h with h
    exact ⟨s, rfl, h ▸ hv⟩
  | succ k ih =>
    obtain ⟨v, hv⟩ := exists_step_eq_next s
    rw [runs_succ hv] at h
    obtain ⟨u, hu, hut⟩ := ih h
    exact ⟨u, by rw [runs_succ hv, hu], hut⟩

/-- What a run collects by prepending what its first cycle yields, it collects by appending what its last cycle
yields. -/
theorem trace_snoc {α : Type} {out : State → List α} {trace : Nat → State → List α} (h0 : ∀ s, trace 0 s = [])
    (hsucc : ∀ k s t, step s = .next t → trace (k + 1) s = out s ++ trace k t) {k : Nat} {s u : State}
    (hr : runs k s = some u) : trace (k + 1) s = trace k s ++ out u := by
  induction k generalizing s with
  | zero =>
    obtain ⟨v, hv⟩ := exists_step_eq_next s
    injection hr with hr
    rw [hsucc 0 s v hv, h0, h0, List.append_nil, List.nil_append, hr]
  | succ k ih =>
    obtain ⟨v, hv⟩ := exists_step_eq_next s
    rw [runs_succ hv] at hr
    rw [hsucc (k + 1) s v hv, ih hr, hsucc k s v hv, List.append_assoc]

/-- The address read in the coming cycle, if a read completes in it (spec/20_memory.md R62). -/
def State.readsNext (s : State) : List Word := if s.mReq s.nextCycle && s.nextCycle.ack then [s.mAddr] else []

theorem readsIn_succ {k : Nat} {s u : State} (h : runs k s = some u) :
    readsIn (k + 1) s = readsIn k s ++ u.readsNext :=
  trace_snoc (fun _ => rfl) (fun _ _ _ h => by simp only [readsIn, h]; rfl) h

theorem consumedIn_succ {k : Nat} {s u : State} (h : runs k s = some u) :
    consumedIn (k + 1) s = consumedIn k s ++ (u.consumed u.nextCycle).toList :=
  trace_snoc (out := fun s => (s.consumed s.nextCycle).toList) (fun _ => rfl)
    (fun _ _ _ h => by simp only [consumedIn, h]) h

/-- A condition on the first inputs, which the empty cycle meets too, holds of the input of each cycle of the run. -/
theorem nextCycle_of_runs {P : Cycle → Prop} (h0 : P {}) {k : Nat} {s u : State}
    (h : ∀ c ∈ s.inputs.take (k + 1), P c) (hr : runs k s = some u) : P u.nextCycle := by
  induction k generalizing s with
  | zero =>
    injection hr with hr
    exact hr ▸ State.nextCycle_of_take h h0
  | succ k ih =>
    obtain ⟨v, hv⟩ := exists_step_eq_next s
    rw [runs_succ hv] at hr
    exact ih (step_inputs_take hv h) hr

theorem State.nextCycle_leavesMessage {s u : State} {k : Nat} (hd : s.KeepsDuty k) (hr : runs k s = some u) :
    s.LeavesMessage u.nextCycle :=
  nextCycle_of_runs (s.leavesMessage_of_no_stores rfl) hd hr

theorem State.KeepsDuty.of_succ {s : State} {k : Nat} (h : s.KeepsDuty (k + 1)) : s.KeepsDuty k :=
  fun c hc => h c ((List.take_sublist_take_left (Nat.le_succ _)).subset hc)

/-! ### The run of an operation -/

/-- Induction along the run of an operation: a property of the state after each cycle, from that of acceptance on. -/
theorem OperationRun.induction {p : HostItem → Bool} {s : State} {M : Nat → State → Prop}
    (accept : ∀ t, OperationRun p 0 s t → step s = .next t → M 0 t)
    (next : ∀ k u t, OperationRun p k s u → u.busy = true → u.nextCycle.rst = false → M k u → step u = .next t →
      M (k + 1) t) {k : Nat} {t : State} (h : OperationRun p k s t) : M k t := by
  induction k generalizing t with
  | zero =>
    obtain ⟨u, hu, hut⟩ := step_of_runs_succ h.ends_in
    injection hu with hu
    exact accept t h (hu ▸ hut)
  | succ k ih =>
    obtain ⟨u, hu, hut⟩ := step_of_runs_succ h.ends_in
    have hrun : OperationRun p k s u :=
      { h with
        no_reset := fun c hc => h.no_reset c ((List.take_sublist_take_left (Nat.le_succ _)).subset hc)
        busy_until := fun j v h1 hj hv => h.busy_until j v h1 (by omega) hv
        ends_in := hu }
    exact next k u t hrun (h.busy_until (k + 1) u (by omega) (Nat.le_refl _) hu)
      (nextCycle_of_runs (P := fun c => c.rst = false) rfl h.no_reset hu) (ih hrun) hut

/-! ### The cycle of acceptance -/

/-- The command that starts an operation (spec/30_encoding.md R93). -/
def Op.command : Op → HostItem → Bool
  | .none => fun _ => false
  | .h8 => isHash8
  | .h64 => isHash64

/-- The host access of a cycle without reset has the effect of its kind; then come the platform's writes, and the engine
if an operation was running (spec/70_reset_and_hazards.md R273). -/
theorem step_effect {s t : State} (hr : s.nextCycle.rst = false) (h : step s = .next t) :
    ∃ u, s.nextCycle.hostKind.Effect s.popInput u ∧ t = u.afterHost s.busy s.nextCycle := by
  obtain ⟨hr', -⟩ | ⟨-, u, hu, rfl⟩ := step_cases h
  · exact nomatch hr.symm.trans hr'
  refine ⟨u, ?_, rfl⟩
  unfold Cycle.hostKind
  obtain ⟨hn, rfl⟩ | ⟨item, hi, he⟩ := hu
  · rw [hn]
    exact ⟨s.hrdata, rfl⟩
  · rw [hi]
    exact exec_effect he

/-- The state that an accepted start with LEN ≥ 1 leaves: its operation stands before its first step, ACC is 0 and no
byte is disturbed (spec/41_byte_hash.md R143, spec/42_hash64.md R173). -/
structure State.Started (op : Op) (s u : State) : Prop where
  operating : s.Operating op u
  stepsDone : u.stepsDone = 0
  acc : u.acc = 0#8
  mem : u.mem = s.mem
  disturbed : u.disturbed = []

theorem State.startHash8_started {s : State} (hb : s.busy = false) (hn : s.len ≠ 0#32) :
    s.Started .h8 s.startHash8 := by
  have hpos : 0 < s.len.toNat := Nat.pos_of_ne_zero fun h => hn (BitVec.eq_of_toNat_eq h)
  rw [State.startHash8_idle hb, if_neg hn]
  exact ⟨⟨rfl, rfl, rfl, rfl, rfl, hpos⟩, rfl, State.acc_setAcc s 0#8, rfl, rfl⟩

theorem State.startHash64_started {s : State} (hb : s.busy = false) (hn : s.len ≠ 0#32) :
    s.Started .h64 s.startHash64 := by
  obtain ⟨ho, hcount, -⟩ := State.startHash64_of_idle hb hn
  rw [State.startHash64_idle hb, if_neg hn] at ho hcount ⊢
  refine ⟨ho, hcount, ?_, rfl, rfl⟩
  cases he : s.cfg.engines with
  | one => exact State.acc_setAcc s 0#8
  | eight => rfl

theorem State.Started.of_popInput {op : Op} {s u : State} (h : s.popInput.Started op u) : s.Started op u :=
  { h with operating := { h.operating with } }

/-- The cycle that accepts a start with LEN ≥ 1: the operation starts and the platform's writes land; the engine takes
no step (spec/41_byte_hash.md R143, R145; log entry 8). -/
theorem started_of_accepted {op : Op} {s t : State} (ha : s.acceptsIn s.nextCycle = true)
    (hc : s.nextCycle.hostIs op.command = true) (hn : s.len ≠ 0#32) (h : step s = .next t) :
    ∃ u, s.Started op u ∧ t = u.platformStores s.nextCycle.stores := by
  obtain ⟨hr, hb, -⟩ := State.acceptsIn_iff.1 ha
  obtain ⟨u, heff, rfl⟩ := step_effect hr h
  refine ⟨u, State.Started.of_popInput ?_, by rw [State.afterHost, hb, if_neg Bool.false_ne_true]⟩
  cases op with
  | none => exact absurd hc (by cases hh : s.nextCycle.host <;> simp [Cycle.hostIs, Op.command, hh])
  | h8 =>
    rw [Op.command, Cycle.hostIs_isHash8, beq_iff_eq] at hc
    rw [hc] at heff
    rw [show u = _ from heff]
    exact State.startHash8_started hb hn
  | h64 =>
    rw [Op.command, Cycle.hostIs_isHash64, beq_iff_eq] at hc
    rw [hc] at heff
    rw [show u = _ from heff]
    exact State.startHash64_started hb hn

/-- An accepted start is a HASH8 or a HASH64. -/
theorem State.exists_command_of_acceptsIn {s : State} {c : Cycle} (h : s.acceptsIn c = true) :
    ∃ op : Op, c.hostIs op.command = true := by
  obtain ⟨-, -, hk⟩ := State.acceptsIn_iff.1 h
  rw [Cycle.hostIs_isStart, HostKind.isStart, Bool.or_eq_true, ← Cycle.hostIs_isHash8, ← Cycle.hostIs_isHash64] at hk
  exact hk.elim (⟨.h8, ·⟩) (⟨.h64, ·⟩)

theorem operating_of_accepted {op : Op} {s t : State} (ha : s.acceptsIn s.nextCycle = true)
    (hc : s.nextCycle.hostIs op.command = true) (hn : s.len ≠ 0#32) (h : step s = .next t) :
    s.Operating op t ∧ t.stepsDone = 0 := by
  obtain ⟨u, hu, rfl⟩ := started_of_accepted ha hc hn h
  have hx := u.sameEngine_platformStores s.nextCycle.stores
  exact ⟨hu.operating.sameEngine hx, hx.stepsDone.trans hu.stepsDone⟩

/-- Until its last step the operation accepted is running, on the operands of its acceptance. -/
theorem OperationRun.operating {op : Op} {k : Nat} {s t : State} (hw : s.Wf) (h : OperationRun op.command k s t)
    (ht : t.busy = true) : s.Operating op t := by
  revert ht
  refine h.induction (M := fun _ t => t.busy = true → s.Operating op t) (fun t h0 hst _ => ?_)
    fun k u t _ hub hr ih hst htb => ?_
  · exact (operating_of_accepted h0.accepted h0.command h0.nonempty hst).1
  · obtain ⟨-, ho, -⟩ | ⟨-, ho, -⟩ | ⟨-, hidle, -⟩ := (ih hub).step hw.len_lt hr hst
    · exact ho
    · exact ho
    · exact nomatch hidle.symm.trans htb

/-- An operation accepted in a prompt environment runs for as many cycles as it has steps (spec/42_hash64.md R185; log
entries 8, 9, 10). -/
theorem exists_operationRun_of_prompt {op : Op} {s : State} (hw : s.Wf) (ha : s.acceptsIn s.nextCycle = true)
    (hc : s.nextCycle.hostIs op.command = true) (hn : s.len ≠ 0#32)
    (hp : s.popInput.promptFor (stepCount op s.cfg.engines s.len.toNat) = true) :
    ∃ t, OperationRun op.command (stepCount op s.cfg.engines s.len.toNat) s t ∧ t.busy = false := by
  obtain ⟨u, hu⟩ := exists_step_eq_next s
  obtain ⟨ho, hcount⟩ := operating_of_accepted ha hc hn hu
  have hup : u.promptFor (stepCount op s.cfg.engines s.len.toNat) = true := by
    rw [State.promptFor, step_inputs hu]
    exact hp
  obtain ⟨t, hr, ht, hbusy⟩ := ho.run_of_prompt hw.len_lt (by omega) hup
  refine ⟨t, ⟨ha, hc, hn, ?_, fun j v h1 hj hv => ?_, by rw [runs_succ hu, hr]⟩, ht⟩
  · exact State.forall_take_inputs (State.acceptsIn_iff.1 ha).1
      fun c h => (Cycle.prompt_iff.1 (State.prompt_of_promptFor hp c h)).1
  · obtain ⟨i, rfl⟩ := Nat.exists_eq_succ_of_ne_zero (Nat.ne_of_gt h1)
    exact hbusy i v (by omega) (by rw [← runs_succ hu, hv])

end Sys2Proof.Machine
end

section
/-! SUPPORT. The message reads of an operation, step by step (spec/20_memory.md R66, spec/42_hash64.md R175, R185). -/

namespace Sys2Proof.Machine

/-! ### The read of one step -/

/-- The read of step `j` of an operation on the message of `s`: byte `j` modulo LEN, or nothing at byte 0 of a further
iteration, which is steered (spec/42_hash64.md R175). -/
def State.stepReads (s : State) (j : Nat) : List Word :=
  if s.len.toNat ≤ j ∧ j % s.len.toNat = 0 then [] else [s.msgAddr (j % s.len.toNat)]

/-- Step `j` of iteration `i` reads byte `j`, unless it is steered. -/
theorem State.stepReads_add (s : State) (i : Nat) {j : Nat} (hj : j < s.len.toNat) :
    s.stepReads (i * s.len.toNat + j) = if i ≠ 0 ∧ j = 0 then [] else [s.msgAddr j] := by
  have hmod : (i * s.len.toNat + j) % s.len.toNat = j := by rw [Nat.mul_add_mod_self_right, Nat.mod_eq_of_lt hj]
  have hle : s.len.toNat ≤ i * s.len.toNat + j ↔ i ≠ 0 := by
    cases i with
    | zero => simpa using hj
    | succ i => exact iff_of_true (by rw [Nat.succ_mul]; omega) (Nat.succ_ne_zero i)
  simp only [State.stepReads, hmod, hle]

/-- The steps done are those of whole iterations and IDX more; a steered step is at IDX = 0 after at least one iteration
(spec/42_hash64.md R175, R178). -/
theorem State.Operating.exists_stepsDone_eq {op : Op} {s u : State} (h : s.Operating op u) :
    ∃ i, u.stepsDone = i * s.len.toNat + u.idx.toNat ∧ (u.steered = true ↔ i ≠ 0 ∧ u.idx.toNat = 0) := by
  have hidx : u.idx = 0#32 ↔ u.idx.toNat = 0 := BitVec.toNat_inj.symm
  cases ho : u.op with
  | none => exact absurd ho ((State.busy_iff u).1 h.busy)
  | h8 => exact ⟨0, by simp [State.stepsDone, ho], by simp [State.steered, ho]⟩
  | h64 =>
    cases he : u.cfg.engines with
    | one =>
      have hiter : u.iter = 0#3 ↔ u.iter.toNat = 0 := BitVec.toNat_inj.symm
      refine ⟨u.iter.toNat, by simp only [State.stepsDone, ho, he, h.len], ?_⟩
      simp [State.steered, ho, he, hidx, hiter, and_comm]
    | eight => exact ⟨0, by simp [State.stepsDone, ho, he], by simp [State.steered, he]⟩

/-- The coming step reads byte IDX, unless it is steered (spec/41_byte_hash.md R145, spec/42_hash64.md R175). -/
theorem State.Operating.stepReads_stepsDone {op : Op} {s u : State} (h : s.Operating op u) :
    s.stepReads u.stepsDone = if u.steered then [] else [u.mAddr] := by
  obtain ⟨i, hdone, hsteered⟩ := h.exists_stepsDone_eq
  have haddr : s.msgAddr u.idx.toNat = u.mAddr := by simp only [State.mAddr, State.msgAddr, h.cfg, h.base]
  simp only [hdone, s.stepReads_add i (h.len ▸ h.idx_lt), haddr, hsteered]

/-- A cycle completes the read of the step it completes, and no other (spec/20_memory.md R62). -/
theorem State.Operating.readsNext_eq {op : Op} {s u : State} (h : s.Operating op u) (hr : u.nextCycle.rst = false) :
    u.readsNext = if u.stepsIn u.nextCycle then s.stepReads u.stepsDone else [] := by
  rw [h.stepReads_stepsDone, State.readsNext, State.mReq, State.readNeeded_of_busy h.busy, State.stepsIn, hr, h.busy]
  cases u.steered <;> simp

/-! ### The reads of a run -/

/-- The reads of the first `m` steps of an operation. -/
def State.readsOfSteps (s : State) (m : Nat) : List Word := (List.range m).flatMap s.stepReads

theorem State.readsOfSteps_succ (s : State) (m : Nat) :
    s.readsOfSteps (m + 1) = s.readsOfSteps m ++ s.stepReads m := by
  simp [State.readsOfSteps, List.range_succ]

theorem State.readsOfSteps_isPrefix (s : State) {m m' : Nat} (h : m ≤ m') : s.readsOfSteps m <+: s.readsOfSteps m' := by
  obtain ⟨d, rfl⟩ := Nat.exists_eq_add_of_le h
  rw [State.readsOfSteps, State.readsOfSteps, List.range_add, List.flatMap_append]
  exact List.prefix_append _ _

theorem State.readsNext_of_idle {s : State} (hb : s.busy = false) : s.readsNext = [] := by
  simp [State.readsNext, State.mReq, State.readNeeded, hb]

/-- The reads completed in a run are those of the steps done (spec/20_memory.md R66). -/
theorem OperationRun.readsIn_eq {op : Op} {k : Nat} {s t : State} (hw : s.Wf) (h : OperationRun op.command k s t) :
    readsIn (k + 1) s =
      s.readsOfSteps (if t.busy then t.stepsDone else stepCount op s.cfg.engines s.len.toNat) := by
  refine h.induction (M := fun k t => readsIn (k + 1) s =
    s.readsOfSteps (if t.busy then t.stepsDone else stepCount op s.cfg.engines s.len.toNat))
    (fun t h0 hst => ?_) fun k u t hrun hub hr ih hst => ?_
  · obtain ⟨ho, hcount⟩ := operating_of_accepted h0.accepted h0.command h0.nonempty hst
    rw [readsIn_succ (u := s) rfl, State.readsNext_of_idle (State.acceptsIn_iff.1 h0.accepted).2.1, ho.busy, if_pos rfl,
      hcount]
    rfl
  · have ho := hrun.operating hw hub
    rw [hub, if_pos rfl] at ih
    rw [readsIn_succ hrun.ends_in, ih, ho.readsNext_eq hr]
    obtain ⟨hs, hot, hcount⟩ | ⟨hs, hot, hcount⟩ | ⟨hs, hidle, hcount⟩ := ho.step hw.len_lt hr hst
    · rw [hs, if_neg Bool.false_ne_true, hot.busy, if_pos rfl, hcount, List.append_nil]
    · rw [hs, if_pos rfl, hot.busy, if_pos rfl, hcount, State.readsOfSteps_succ]
    · rw [hs, if_pos rfl, hidle, if_neg Bool.false_ne_true, ← hcount, State.readsOfSteps_succ]

/-! ### The order of the reads -/

/-- The first LEN steps read the message in ascending order. -/
theorem State.readsOfSteps_len (s : State) : s.readsOfSteps s.len.toNat = s.addrsFrom 0 s.len.toNat := by
  rw [State.addrsFrom, ← List.range_eq_range', List.map_eq_flatMap]
  refine congrArg List.flatten (List.map_congr_left fun j hj => ?_)
  have hread := s.stepReads_add 0 (List.mem_range.1 hj)
  rwa [Nat.zero_mul, Nat.zero_add, if_neg fun h => h.1 rfl] at hread

/-- The steps of a further iteration read all of the message but its first byte (spec/42_hash64.md R175). -/
theorem State.readsOfSteps_iteration {s : State} (hn : s.len ≠ 0#32) (i : Nat) :
    s.readsOfSteps ((i + 2) * s.len.toNat) =
      s.readsOfSteps ((i + 1) * s.len.toNat) ++ s.addrsFrom 1 (s.len.toNat - 1) := by
  obtain ⟨m, hm⟩ : ∃ m, s.len.toNat = m + 1 :=
    Nat.exists_eq_succ_of_ne_zero fun h => hn (BitVec.eq_of_toNat_eq h)
  have hrest : (List.range' 1 m).flatMap (fun j => s.stepReads ((i + 1) * s.len.toNat + j)) = s.addrsFrom 1 m := by
    rw [State.addrsFrom, List.map_eq_flatMap]
    refine congrArg List.flatten (List.map_congr_left fun j hj => ?_)
    obtain ⟨h1, hj⟩ := List.mem_range'_1.1 hj
    rw [s.stepReads_add (i + 1) (by omega), if_neg (by omega)]
  have hfirst : s.stepReads ((i + 1) * s.len.toNat + 0) = [] := s.stepReads_add (i + 1) (by omega)
  have hrange : List.range s.len.toNat = 0 :: List.range' 1 m := by rw [hm, List.range_eq_range', List.range'_succ]
  rw [Nat.succ_mul (i + 1), State.readsOfSteps, List.range_add, List.flatMap_append, List.flatMap_map, hrange,
    List.flatMap_cons, hfirst, hrest, hm]
  rfl

/-- One iteration reads the whole message and each of the `i` that follow all but its first byte. -/
theorem State.readsOfSteps_iterations {s : State} (hn : s.len ≠ 0#32) (i : Nat) :
    s.readsOfSteps ((i + 1) * s.len.toNat) =
      s.addrsFrom 0 s.len.toNat ++ (List.replicate i (s.addrsFrom 1 (s.len.toNat - 1))).flatten := by
  induction i with
  | zero => rw [Nat.zero_add, Nat.one_mul, s.readsOfSteps_len]; simp
  | succ i ih =>
    rw [State.readsOfSteps_iteration hn, ih, List.replicate_succ', List.flatten_append, List.append_assoc]
    simp

/-- The reads of all steps of an operation are those of spec/20_memory.md R66, in its order. -/
theorem State.readsOfSteps_stepCount {s : State} (hn : s.len ≠ 0#32) (op : Op) :
    s.readsOfSteps (stepCount op s.cfg.engines s.len.toNat) = s.readOrder op := by
  cases op with
  | none => rfl
  | h8 => exact s.readsOfSteps_len
  | h64 =>
    cases he : s.cfg.engines with
    | one => simp only [State.readOrder, he]; exact State.readsOfSteps_iterations hn 7
    | eight => simp only [State.readOrder, he]; exact s.readsOfSteps_len

/-- The reads of a running operation are the first of its order, and those of one that has ended are all of them
(spec/20_memory.md R66). -/
theorem OperationRun.reads_in_order {op : Op} {k : Nat} {s t : State} (hw : s.Wf)
    (h : OperationRun op.command k s t) :
    readsIn (k + 1) s <+: s.readOrder op ∧ (t.busy = false → readsIn (k + 1) s = s.readOrder op) := by
  rw [h.readsIn_eq hw, ← State.readsOfSteps_stepCount h.nonempty]
  cases hb : t.busy with
  | false => exact ⟨List.prefix_rfl, fun _ => rfl⟩
  | true =>
    have hlt := (h.operating hw hb).stepsDone_lt
    exact ⟨s.readsOfSteps_isPrefix (Nat.le_of_lt hlt), nofun⟩

/-- A start with LEN = 0 is over in its own cycle: it reads nothing (spec/41_byte_hash.md R144, spec/42_hash64.md
R174). -/
theorem busy_eq_false_of_accepted_empty {s t : State} (ha : s.acceptsIn s.nextCycle = true) (hl : s.len = 0#32)
    (h : step s = .next t) : t.busy = false := by
  obtain ⟨hr, hb, -⟩ := State.acceptsIn_iff.1 ha
  have hlaw := (busyFlagLaw s t h).2
  rw [State.statusWord_bit0, State.statusWord_bit0, hb, hl, hr] at hlaw
  simpa using hlaw

/-- Settles O53: the reads completed are those of the steps done, in any environment, and a prompt one runs each
operation to its end in as many cycles as it has steps. -/
theorem messageReadsAreInOrder : Obligations.MessageReadsAreInOrder := by
  have hprompt : ∀ (op : Op) (s : State), s.Wf → s.acceptsIn s.nextCycle = true →
      s.nextCycle.hostIs op.command = true → s.len ≠ 0#32 →
      s.popInput.promptFor (stepCount op s.cfg.engines s.len.toNat) = true →
      readsIn (stepCount op s.cfg.engines s.len.toNat + 1) s = s.readOrder op := by
    intro op s hw ha hc hn hp
    obtain ⟨t, hrun, ht⟩ := exists_operationRun_of_prompt hw ha hc hn hp
    exact (hrun.reads_in_order hw).2 ht
  refine ⟨fun k s t hw => ⟨?_, ?_⟩, fun s he hn => ?_, fun s t ha hl h => ⟨?_, fun c => ?_⟩,
    fun s hw ha hn _ => ⟨?_, ?_, ?_⟩⟩
  · exact OperationRun.reads_in_order (op := .h8) hw
  · exact OperationRun.reads_in_order (op := .h64) hw
  · have hpos : s.len.toNat ≠ 0 := fun h => hn (BitVec.eq_of_toNat_eq h)
    have hlen : (s.readOrder .h64).length = s.len.toNat + 7 * (s.len.toNat - 1) := by
      simp only [State.readOrder, State.addrsFrom, he, List.length_append, List.length_map, List.length_range',
        List.length_flatten, List.map_replicate, List.sum_replicate_nat]
    omega
  · rw [readsIn_succ (u := s) rfl, State.readsNext_of_idle (State.acceptsIn_iff.1 ha).2.1]
    rfl
  · simp [State.mReq, State.readNeeded, busy_eq_false_of_accepted_empty ha hl h]
  · exact fun hc hp => hprompt .h8 s hw ha hc hn hp
  · intro hc he hp
    have h := hprompt .h64 s hw ha hc hn (by rw [he]; exact hp)
    simpa only [State.readOrder, stepCount, he] using h
  · intro hc he hp
    have h := hprompt .h64 s hw ha hc hn (by rw [he]; exact hp)
    simpa only [State.readOrder, stepCount, he] using h

end Sys2Proof.Machine
end

section
/-! SUPPORT. The bytes that a HASH8 consumes, and what it makes of them (spec/41_byte_hash.md R147–R151,
spec/70_reset_and_hazards.md R270). -/

namespace Sys2Proof.Machine

/-! ### One cycle -/

theorem byteHash_concat (m : List Byte) (b : Byte) (t : Table) :
    byteHash (m ++ [b]) t = lut t (byteHash m t ^^^ b) := by
  simp [byteHash]

theorem State.consumed_eq_none {s : State} {c : Cycle} (h : s.stepsIn c = false) : s.consumed c = none := by
  rw [State.consumed, h, if_neg Bool.false_ne_true]

/-- What a cycle makes of a running HASH8: it waits, it folds the byte read into ACC and goes on, or it leaves the last
fold in HASH8 (spec/41_byte_hash.md R147–R150). -/
theorem State.Operating.step_h8 {s u t : State} (h : s.Operating .h8 u) (hlen : s.len.toNat < 2 ^ s.cfg.lw)
    (hr : u.nextCycle.rst = false) (ht : Machine.step u = .next t) :
    (u.consumed u.nextCycle = none ∧ s.Operating .h8 t ∧ t.acc = u.acc ∧ t.idx = u.idx) ∨
    (∃ b, u.consumed u.nextCycle = some b ∧ s.Operating .h8 t ∧ t.acc = u.fold b ∧
      t.idx.toNat = u.idx.toNat + 1) ∨
    (∃ b, u.consumed u.nextCycle = some b ∧ t.busy = false ∧ t.hash8 = u.fold b ∧
      u.idx.toNat + 1 = s.len.toNat) := by
  obtain ⟨x, hx, -, -, ⟨hs, rfl⟩ | ⟨-, b, hb, rfl⟩⟩ := step_of_busy h.busy hr ht
  · exact .inl ⟨State.consumed_eq_none hs, h.sameEngine hx, congrArg (·[0]) hx.accv, hx.idx⟩
  · have hox := h.sameEngine hx
    have hfold : x.fold b = u.fold b := by simp only [State.fold, State.acc, hx.cfg, hx.accv]
    have heq := (State.engineStep_h8 hox.op b).trans (x.stepHash8_eq b)
    cases hl : x.lastByte with
    | false =>
      rw [hl, if_neg Bool.false_ne_true] at heq
      have hot := hox.engineStep hlen ((State.lastStep_h8 hox.op).trans hl) b
      refine .inr (.inl ⟨b, hb, hot, ?_, ?_⟩)
      · rw [heq, ← hfold]
        exact State.acc_setAcc x (x.fold b)
      · rw [heq, ← hx.idx]
        exact (hox.nextIdx_toNat hlen hl).1
    | true =>
      rw [hl, if_pos rfl] at heq
      refine .inr (.inr ⟨b, hb, ?_, ?_, ?_⟩)
      · rw [heq]
        rfl
      · rw [heq, ← hfold]
      · rw [← hx.idx, ← h.len, ← hx.len]
        exact State.lastByte_iff.1 hl

/-- While nobody writes to the message, a read returns byte IDX of it (spec/20_memory.md R67). -/
theorem State.consumed_of_read {s : State} {c : Cycle} (hb : s.busy = true) (hst : s.steered = false)
    (hi : s.MessageIntact) (hl : s.LeavesMessage c) (hidx : s.idx.toNat < s.len.toNat) (hs : s.stepsIn c = true) :
    s.consumed c = s.message[s.idx.toNat]? := by
  have hans := State.answer_of_messageIntact ((State.messageIntact_platformStores hb c).2 ⟨hi, hl⟩)
    (by simpa using hidx)
  rw [State.message_platformStores hl, State.platformStores_idx] at hans
  rw [State.consumed, if_pos hs, hst, if_neg Bool.false_ne_true, hans]

/-- A cycle of a running operation in which nobody writes to the message leaves it as it is, undisturbed. -/
theorem step_message {s t : State} (hb : s.busy = true) (hr : s.nextCycle.rst = false) (hi : s.MessageIntact)
    (hl : s.LeavesMessage s.nextCycle) (h : step s = .next t) : t.message = s.message ∧ t.MessageIntact := by
  obtain ⟨x, hx, hm, hd, hcase⟩ := step_of_busy hb hr h
  have hp := s.sameEngine_platformStores s.nextCycle.stores
  have hcfg := hx.cfg.trans hp.cfg.symm
  have hbase := hx.base.trans hp.base.symm
  have hlen := hx.len.trans hp.len.symm
  have hmsg : x.message = s.message := (State.message_congr hcfg hbase hlen hm).trans (State.message_platformStores hl)
  have hint : x.MessageIntact :=
    (State.messageIntact_congr hcfg hbase hlen hd).2 ((State.messageIntact_platformStores hb _).2 ⟨hi, hl⟩)
  obtain ⟨-, rfl⟩ | ⟨-, b, -, rfl⟩ := hcase
  · exact ⟨hmsg, hint⟩
  · exact ⟨(x.message_engineStep b).trans hmsg, (x.messageIntact_engineStep b).2 hint⟩

/-! ### The run -/

theorem consumedIn_one_of_accepted {s : State} (ha : s.acceptsIn s.nextCycle = true) : consumedIn 1 s = [] := by
  have hs : s.stepsIn s.nextCycle = false := by simp [State.stepsIn, (State.acceptsIn_iff.1 ha).2.1]
  rw [consumedIn_succ (u := s) rfl, State.consumed_eq_none hs]
  rfl

/-- What the registers of a HASH8 hold of the bytes it has consumed: ACC while it runs, HASH8 when it has ended
(spec/41_byte_hash.md R147, R149). -/
structure State.HoldsHash8Of (s t : State) (bytes : List Byte) : Prop where
  running : t.busy = true → t.acc = byteHash bytes s.cfg.table ∧ bytes.length = t.idx.toNat
  ended : t.busy = false → t.hash8 = byteHash bytes s.cfg.table ∧ bytes.length = s.len.toNat

theorem OperationRun.holdsHash8Of {k : Nat} {s t : State} (hw : s.Wf) (h : OperationRun isHash8 k s t) :
    s.HoldsHash8Of t (consumedIn (k + 1) s) := by
  refine h.induction (M := fun k t => s.HoldsHash8Of t (consumedIn (k + 1) s)) (fun t h0 hst => ?_)
    fun k u t hrun hub hr ih hst => ?_
  · obtain ⟨u, hu, rfl⟩ := started_of_accepted (op := .h8) h0.accepted h0.command h0.nonempty hst
    have hx := u.sameEngine_platformStores s.nextCycle.stores
    rw [consumedIn_one_of_accepted h0.accepted]
    refine ⟨fun _ => ⟨(congrArg (·[0]) hx.accv).trans hu.acc, ?_⟩,
      fun ht => nomatch (hx.busy.trans hu.operating.busy).symm.trans ht⟩
    have hidx : u.idx.toNat = 0 := by simpa only [State.stepsDone, hu.operating.op] using hu.stepsDone
    rw [hx.idx, hidx]
    rfl
  · have ho := OperationRun.operating (op := .h8) hw hrun hub
    obtain ⟨hacc, hcount⟩ := ih.running hub
    have hfold : ∀ b, u.fold b = byteHash (consumedIn (k + 1) s ++ [b]) s.cfg.table := fun b => by
      rw [State.fold, hacc, byteHash_concat, ho.cfg]
    rw [consumedIn_succ hrun.ends_in]
    obtain ⟨hc, hot, ha, hi⟩ | ⟨b, hc, hot, ha, hi⟩ | ⟨b, hc, hidle, ha, hi⟩ := ho.step_h8 hw.len_lt hr hst
    · rw [hc, Option.toList_none, List.append_nil]
      exact ⟨fun _ => ⟨ha.trans hacc, hi ▸ hcount⟩, fun ht => nomatch hot.busy.symm.trans ht⟩
    · rw [hc, Option.toList_some]
      exact ⟨fun _ => ⟨ha.trans (hfold b), by simp [hcount, hi]⟩, fun ht => nomatch hot.busy.symm.trans ht⟩
    · rw [hc, Option.toList_some]
      exact ⟨fun ht => absurd ht (by simp [hidle]), fun _ => ⟨ha.trans (hfold b), by simp [hcount, hi]⟩⟩

/-- As long as the host keeps its duty, the message of a running operation is the message at acceptance, undisturbed
(spec/70_reset_and_hazards.md R270). -/
theorem OperationRun.message_intact {op : Op} {k : Nat} {s t : State} (hw : s.Wf)
    (h : OperationRun op.command k s t) (hd : s.KeepsDuty k) : t.message = s.message ∧ t.MessageIntact := by
  revert hd
  refine h.induction (M := fun k t => s.KeepsDuty k → t.message = s.message ∧ t.MessageIntact)
    (fun t h0 hst hd => ?_) fun k u t hrun hub hr ih hst hd => ?_
  · obtain ⟨u, hu, rfl⟩ := started_of_accepted h0.accepted h0.command h0.nonempty hst
    have ho := hu.operating
    have hl : u.LeavesMessage s.nextCycle :=
      (State.leavesMessage_congr ho.cfg ho.base ho.len _).2 (State.nextCycle_leavesMessage hd rfl)
    have hint : u.MessageIntact := fun i _ => by rw [hu.disturbed]; exact List.not_mem_nil
    exact ⟨(State.message_platformStores hl).trans (State.message_congr ho.cfg ho.base ho.len hu.mem),
      (State.messageIntact_platformStores ho.busy _).2 ⟨hint, hl⟩⟩
  · obtain ⟨hmsg, hint⟩ := ih hd.of_succ
    have ho := hrun.operating hw hub
    have hl := (State.leavesMessage_congr ho.cfg ho.base ho.len _).2 (State.nextCycle_leavesMessage hd hrun.ends_in)
    obtain ⟨hmsg', hint'⟩ := step_message hub hr hint hl hst
    exact ⟨hmsg'.trans hmsg, hint'⟩

/-- As long as the host keeps its duty, the bytes a HASH8 has consumed are the first of the message. -/
theorem OperationRun.consumedIn_eq_take {k : Nat} {s t : State} (hw : s.Wf) (h : OperationRun isHash8 k s t)
    (hd : s.KeepsDuty k) : consumedIn (k + 1) s = s.message.take (consumedIn (k + 1) s).length := by
  revert hd
  refine h.induction (M := fun k _ =>
    s.KeepsDuty k → consumedIn (k + 1) s = s.message.take (consumedIn (k + 1) s).length)
    (fun t h0 _ _ => ?_) fun k u t hrun hub hr ih hst hd => ?_
  · rw [consumedIn_one_of_accepted h0.accepted]
    rfl
  · have ho := OperationRun.operating (op := .h8) hw hrun hub
    obtain ⟨-, hcount⟩ := (hrun.holdsHash8Of hw).running hub
    have hread : ∀ b, u.consumed u.nextCycle = some b → s.message[(consumedIn (k + 1) s).length]? = some b := by
      intro b hb
      obtain ⟨hmsg, hint⟩ := OperationRun.message_intact (op := .h8) hw hrun hd.of_succ
      have hl := (State.leavesMessage_congr ho.cfg ho.base ho.len _).2 (State.nextCycle_leavesMessage hd hrun.ends_in)
      have hs : u.stepsIn u.nextCycle = true := by
        cases hs : u.stepsIn u.nextCycle with
        | true => rfl
        | false =>
          rw [State.consumed_eq_none hs] at hb
          cases hb
      have hst : u.steered = false := by simp [State.steered, ho.op]
      rw [hcount, ← hmsg, ← State.consumed_of_read hub hst hint hl ho.idx_lt hs, hb]
    rw [consumedIn_succ hrun.ends_in]
    cases hb : u.consumed u.nextCycle with
    | none => simpa using ih hd.of_succ
    | some b =>
      rw [Option.toList_some, List.length_append, List.length_singleton, List.take_add_one, hread b hb,
        ← ih hd.of_succ]
      rfl

/-- Settles O54: ACC folds each byte read in turn, and while the host keeps its duty the byte read at IDX is the
message's. -/
theorem hash8FoldsTheBytesItRead : Obligations.Hash8FoldsTheBytesItRead := by
  intro k s t hw h ht
  obtain ⟨hash, hcount⟩ := (h.holdsHash8Of hw).ended ht
  refine ⟨hash, hcount, fun hd => ?_⟩
  rw [h.consumedIn_eq_take hw hd, hcount, ← s.message_length, List.take_length]

end Sys2Proof.Machine
end

section
/-! SUPPORT. The message memory, its addresses, and what a clock cycle reads and leaves of it (spec/20_memory.md
R60–R64, R67, R69, R78, spec/70_reset_and_hazards.md R275). -/

namespace Sys2Proof.Machine

/-! ### Memory -/

/-- No address below the first listed one is listed. -/
theorem Memory.read_of_lt {lo a : Nat} (ha : a < lo) {m : Memory} (hm : m.wfFrom lo = true) :
    m.read a = Memory.unlisted := by
  induction m generalizing lo with
  | nil => rfl
  | cons c m ih =>
    obtain ⟨x, y⟩ := c
    simp only [Memory.wfFrom, Bool.and_eq_true, decide_eq_true_eq] at hm
    obtain ⟨⟨hlo, -⟩, hm⟩ := hm
    rw [Memory.read, if_neg (by omega), ih (by omega) hm]

theorem Memory.read_cons_self {a : Nat} (b : Byte) {m : Memory} (h : m.read a = Memory.unlisted) :
    (Memory.cons a b m).read a = b := by
  unfold Memory.cons
  split
  · next hb => rw [h, hb]
  · exact if_pos rfl

/-- In a canonical memory a byte reads as it was last written. -/
theorem Memory.read_write_self {lo : Nat} (a : Nat) (b : Byte) {m : Memory} (hm : m.wfFrom lo = true) :
    (m.write a b).read a = b := by
  induction m generalizing lo with
  | nil => exact Memory.read_cons_self b rfl
  | cons c m ih =>
    obtain ⟨x, y⟩ := c
    have hform := hm
    simp only [Memory.wfFrom, Bool.and_eq_true, decide_eq_true_eq] at hm
    obtain ⟨⟨-, hy⟩, hm⟩ := hm
    simp only [Memory.write]
    split
    · next hlt =>
      have habove : Memory.wfFrom x ((x, y) :: m) = true := by simp [Memory.wfFrom, hy, hm]
      exact Memory.read_cons_self b (Memory.read_of_lt hlt habove)
    · split
      · next heq => exact Memory.read_cons_self b (Memory.read_of_lt (by omega) hm)
      · next hne => rw [Memory.read, if_neg (Ne.symm hne), ih hm]

/-- Settles O59: the byte written reads as written, the canonical form having nothing else at its address, and every
other byte as before. -/
theorem memoryReadAfterWrite : Obligations.MemoryReadAfterWrite := by
  intro m a a' b hm
  split
  · next h => rw [h]; exact Memory.read_write_self a b hm
  · next h => exact Memory.read_write_of_ne (Ne.symm h) b m

/-! ### Message addresses -/

/-- `addr(i)` is BASE + i modulo 2^AW: the 32 bits it is computed in lose nothing of it (spec/20_memory.md R63). -/
theorem State.msgAddr_toNat {s : State} (h : s.cfg.aw ≤ 32) (i : Nat) :
    (s.msgAddr i).toNat = (s.base.toNat + i) % 2 ^ s.cfg.aw := by
  rw [State.msgAddr, keepLow_toNat, BitVec.toNat_add, BitVec.toNat_ofNat, Nat.add_mod_mod,
    Nat.mod_mod_of_dvd _ (Nat.pow_dvd_pow 2 h)]

/-- Two numbers below the modulus that stay congruent after a shift are the same. -/
theorem eq_of_add_mod_eq {b i j m : Nat} (hi : i < m) (hj : j < m) (h : (b + i) % m = (b + j) % m) : i = j := by
  have hij := Nat.sub_mod_eq_zero_of_mod_eq h
  have hji := Nat.sub_mod_eq_zero_of_mod_eq h.symm
  rw [Nat.add_sub_add_left, Nat.mod_eq_of_lt (by omega)] at hij hji
  omega

/-- Settles O58: a message has at most 2^LW ≤ 2^AW bytes, so that it does not come round to its own start. -/
theorem messageAddressesWrapAndAreDistinct : Obligations.MessageAddressesWrapAndAreDistinct := by
  intro s hw i j hi hj
  have hlegal := hw.legal
  simp only [Config.legal, Bool.and_eq_true, decide_eq_true_eq] at hlegal
  obtain ⟨⟨-, hlw⟩, haw⟩ := hlegal
  refine ⟨State.msgAddr_toNat haw i, fun h => ?_⟩
  have hspace : s.len.toNat < 2 ^ s.cfg.aw := Nat.lt_of_lt_of_le hw.len_lt (Nat.pow_le_pow_right (by decide) hlw)
  have hmod : (s.base.toNat + i) % 2 ^ s.cfg.aw = (s.base.toNat + j) % 2 ^ s.cfg.aw := by
    rw [← State.msgAddr_toNat haw, ← State.msgAddr_toNat haw, h]
  exact eq_of_add_mod_eq (by omega) (by omega) hmod

/-! ### Host accesses -/

/-- No write looks at haddr[1:0] (spec/20_memory.md R69). -/
theorem exec_decodeWrite_low (off : BitVec 3) (low low' : BitVec 2) (data : Word) (s : State) :
    exec (decodeWrite off low data) s = exec (decodeWrite off low' data) s := by
  unfold decodeWrite
  generalize off.toNat = n
  match n with
  | 0 | 1 | 2 | 3 | 4 | 5 | 6 | _ + 7 => rfl

/-- Bits [5:2] of an access code are WE and OFF (spec/30_encoding.md R90). -/
theorem weOf_offOf_congr {code code' : BitVec 6} (h : code.extractLsb' 2 4 = code'.extractLsb' 2 4) :
    weOf code = weOf code' ∧ offOf code = offOf code' := by
  have hbit : ∀ i, i < 4 → code.getLsbD (2 + i) = code'.getLsbD (2 + i) := by
    intro i hi
    have hc := congrArg (·.getLsbD i) h
    simpa [BitVec.getLsbD_extractLsb', hi] using hc
  refine ⟨hbit 3 (by decide), BitVec.eq_of_getLsbD_eq fun i hi => ?_⟩
  simpa [offOf, BitVec.getLsbD_extractLsb', hi] using hbit i (by omega)

/-- Settles O7: neither reads nor writes look at haddr[1:0]. -/
theorem ignoredAddressBitsChangeNothing : Obligations.IgnoredAddressBitsChangeNothing := by
  intro code code' data s h
  refine ⟨?_, exists_exec_eq_next _ s⟩
  obtain ⟨hwe, hoff⟩ := weOf_offOf_congr h
  rw [decode, decode, decodeAccess, decodeAccess, hwe, hoff]
  split
  · exact exec_decodeWrite_low _ _ _ data s
  · rw [exec_decodeRead, exec_decodeRead]

/-! ### The core and the memory -/

/-- What an engine step leaves of the memory port and the memory: it writes neither (spec/20_memory.md R64). -/
theorem State.engineStep_port (s : State) (b : Byte) :
    (s.engineStep b).mem = s.mem ∧ (s.engineStep b).disturbed = s.disturbed ∧ (s.engineStep b).draws = s.draws ∧
      (s.engineStep b).rdpend = s.rdpend := by
  obtain ⟨_, _, _, _, _, _, _, _, _, h⟩ := s.engineStep_frame b
  rw [h]
  exact ⟨rfl, rfl, rfl, rfl⟩

/-- The engine's part of a cycle writes neither the memory nor the record of its disturbed bytes. -/
theorem State.engineCycle_mem (s : State) (c : Cycle) :
    (s.engineCycle c).mem = s.mem ∧ (s.engineCycle c).disturbed = s.disturbed := by
  obtain ⟨-, -, h⟩ | ⟨-, -, h⟩ | ⟨-, -, h⟩ | ⟨-, -, h⟩ := s.engineCycle_cases c
  · rw [h]; exact ⟨rfl, rfl⟩
  · obtain ⟨hm, hd, -⟩ := s.takeAnswer.engineStep_port s.answer.1
    rw [h]; exact ⟨hm, hd⟩
  · rw [h]; exact ⟨rfl, rfl⟩
  · obtain ⟨hm, hd, -⟩ := s.engineStep_port s.steeredByte
    rw [h]; exact ⟨hm, hd⟩

/-- The memory after a cycle is as the platform's writes leave it. -/
theorem State.afterHost_mem (s : State) (wasBusy : Bool) (c : Cycle) :
    (s.afterHost wasBusy c).mem = (s.platformStores c.stores).mem := by
  unfold State.afterHost
  split
  · exact ((s.platformStores c.stores).engineCycle_mem c).1
  · rfl

theorem State.resetCycle_mem (s : State) (c : Cycle) :
    (s.resetCycle c).mem = (s.coreReset.platformStores c.stores).mem := by
  unfold State.resetCycle
  split <;> rfl

/-- Settles O35: the memory after a cycle is as the platform's writes leave it, reset or not. -/
theorem coreNeverWritesTheMessageMemory : Obligations.CoreNeverWritesTheMessageMemory := by
  intro s t _ h a ha
  have hfree : s.storesTo s.nextCycle a = false := by simpa [State.storesTo] using ha
  obtain ⟨-, rfl⟩ | ⟨-, u, hu, rfl⟩ := step_cases h
  · rw [State.resetCycle_mem]
    exact State.platformStores_read (s := s.popInput.coreReset) hfree
  · obtain ⟨hcfg, hmem⟩ : u.cfg = s.cfg ∧ u.mem = s.mem := by
      obtain ⟨-, rfl⟩ | ⟨item, -, he⟩ := hu
      · exact ⟨rfl, rfl⟩
      · obtain ⟨hc, hm, -⟩ := exec_frame he
        exact ⟨hc, hm⟩
    have hfree' : u.storesTo s.nextCycle a = false := by rw [State.storesTo, hcfg]; exact hfree
    rw [State.afterHost_mem, State.platformStores_read hfree', hmem]

/-! ### The read handshake -/

theorem State.SameEngine.readNeeded {s x : State} (h : s.SameEngine x) : x.readNeeded = s.readNeeded := by
  rw [State.readNeeded, State.readNeeded, h.busy, h.steered]

theorem State.SameEngine.mAddr {s x : State} (h : s.SameEngine x) : x.mAddr = s.mAddr := by
  simp only [State.mAddr, State.msgAddr, h.cfg, h.base, h.idx]

theorem State.mReq_iff {s : State} {c : Cycle} : s.mReq c = true ↔ c.rst = false ∧ s.readNeeded = true := by
  simp [State.mReq]

/-- A read is needed only while an operation runs, and not for a steered step (spec/42_hash64.md R175). -/
theorem State.readNeeded_iff {s : State} : s.readNeeded = true ↔ s.busy = true ∧ s.steered = false := by
  simp [State.readNeeded]

/-- A cycle that requests a read holds the request, or takes the memory's answer, which is the one after the cycle's
platform writes (spec/20_memory.md R62). -/
theorem step_of_mReq {s t : State} (hm : s.mReq s.nextCycle = true) (h : step s = .next t) :
    ∃ v, s.SameEngine v ∧ v.answer = (s.platformStores s.nextCycle.stores).answer ∧
      t = if s.nextCycle.ack then v.takeAnswer.engineStep v.answer.1 else { v with rdpend := true } := by
  obtain ⟨hr, hn⟩ := State.mReq_iff.1 hm
  obtain ⟨v, hv, -, -, hans, rfl⟩ := step_of_busy_engineCycle (State.readNeeded_iff.1 hn).1 hr h
  refine ⟨v, hv, hans, ?_⟩
  rw [State.engineCycle, hv.readNeeded, hn, if_pos rfl]

/-- The engine does not look at `m_ack` while it needs no read. -/
theorem State.afterHost_ack {s u : State} {c : Cycle} (hu : s.busy = true → s.SameEngine u)
    (hn : s.readNeeded = false) (b : Bool) : u.afterHost s.busy { c with ack := b } = u.afterHost s.busy c := by
  unfold State.afterHost
  split
  · next hb =>
    have hx := u.sameEngine_platformStores c.stores
    have hn' := (hx.readNeeded.trans (hu hb).readNeeded).trans hn
    rw [State.engineCycle, State.engineCycle, hn', if_neg Bool.false_ne_true, if_neg Bool.false_ne_true]
  · rfl

/-- An acknowledge with no request is ignored (spec/20_memory.md R62). -/
theorem runCycle_ack {s : State} {c : Cycle} (hm : s.mReq c = false) (b : Bool) :
    runCycle { c with ack := b } s = runCycle c s := by
  unfold runCycle
  cases hr : c.rst with
  | true => rfl
  | false =>
    have hn : s.readNeeded = false := by simpa [State.mReq, hr] using hm
    simp only [Bool.false_eq_true, if_false]
    cases c.host with
    | none => exact congrArg _ (State.afterHost_ack (fun _ => by constructor <;> rfl) hn b)
    | some item =>
      obtain ⟨u, he⟩ := exists_exec_eq_next (decode item) s
      simp only [he]
      exact congrArg _ (State.afterHost_ack (fun hb => sameEngine_of_exec hb he) hn b)

/-- Settles O39: without an acknowledge only RDPEND moves, with one the answer is taken, and without a request the
acknowledge is not looked at. -/
theorem readRequestIsHeldUntilAnswered : Obligations.ReadRequestIsHeldUntilAnswered := by
  intro s t h
  refine ⟨fun hm hack => ?_, fun hm hack => ?_, fun hm b => ?_⟩
  · obtain ⟨v, hv, -, rfl⟩ := step_of_mReq hm h
    rw [hack, if_neg Bool.false_ne_true]
    exact ⟨rfl, hv.readNeeded.trans (State.mReq_iff.1 hm).2, hv.mAddr, hv.op, hv.idx, hv.iter, hv.fb, hv.lanes, hv.accv⟩
  · obtain ⟨v, -, -, rfl⟩ := step_of_mReq hm h
    obtain ⟨-, -, -, hp⟩ := v.takeAnswer.engineStep_port v.answer.1
    rw [hack, if_pos rfl, hp]
    rfl
  · exact (runCycle_ack (s := s.popInput) hm b).trans h

/-! ### Disturbed bytes -/

@[simp] theorem State.platformStores_draws (s : State) (l : List (Word × Byte)) :
    (s.platformStores l).draws = s.draws := by
  obtain ⟨m, d, h⟩ := s.platformStores_eq l
  rw [h]

/-- While an operation runs, the addresses disturbed are those that were and those the cycle's writes go to. -/
theorem State.mem_disturbed_platformStores {s : State} (hb : s.busy = true) (c : Cycle) (a : Nat) :
    a ∈ (s.platformStores c.stores).disturbed ↔ a ∈ s.disturbed ∨ s.storesTo c a = true :=
  s.mem_platformStores_disturbed c.stores hb a

/-- The memory's answer after the writes of the cycle: a draw at an address disturbed before or in the cycle, else the
byte that stood there (spec/20_memory.md R67, R78). -/
theorem State.answer_platformStores {s : State} (hb : s.busy = true) (c : Cycle) :
    (s.platformStores c.stores).answer =
      if s.mAddr.toNat ∈ s.disturbed ∨ s.storesTo c s.mAddr.toNat = true then
        (Config.drawnByte s.draws, s.draws + 1)
      else (s.mem.read s.mAddr.toNat, s.draws) := by
  have hdist := State.mem_disturbed_platformStores hb c s.mAddr.toNat
  rw [State.answer, (s.sameEngine_platformStores c.stores).mAddr, State.platformStores_draws]
  split
  · next h => rw [if_pos (hdist.1 h)]
  · next h =>
    have hfree := fun h' => h (hdist.2 h')
    rw [if_neg hfree, State.platformStores_read (Bool.eq_false_iff.2 fun h' => hfree (.inr h'))]

/-- Settles O43: the host access leaves the record as it is, an accepted start empties it, the platform's writes enter
it, and the engine reads what they leave. -/
theorem readOfADisturbedByteIsADraw : Obligations.ReadOfADisturbedByteIsADraw := by
  intro s t h hr
  refine ⟨fun hop a => ?_, fun ha hn a => ?_, fun hm hack => ?_⟩
  · have hb := (State.busy_iff s).2 hop
    obtain ⟨v, -, -, hd, -, rfl⟩ := step_of_busy_engineCycle hb hr h
    rw [(v.engineCycle_mem _).2, hd]
    exact State.mem_disturbed_platformStores hb _ a
  · obtain ⟨op, hc⟩ := State.exists_command_of_acceptsIn ha
    obtain ⟨u, hu, rfl⟩ := started_of_accepted ha hc hn h
    rw [State.mem_disturbed_platformStores hu.operating.busy, hu.disturbed, State.storesTo, hu.operating.cfg]
    simp [State.storesTo]
  · obtain ⟨hb, hst⟩ := State.readNeeded_iff.1 (State.mReq_iff.1 hm).2
    obtain ⟨v, -, hans, rfl⟩ := step_of_mReq hm h
    obtain ⟨-, -, hdraws, -⟩ := v.takeAnswer.engineStep_port v.answer.1
    have hs : s.stepsIn s.nextCycle = true := by simp [State.stepsIn, hr, hb, hst, hack]
    have hconsumed : s.consumed s.nextCycle = some (s.platformStores s.nextCycle.stores).answer.1 := by
      rw [State.consumed, if_pos hs, hst, if_neg Bool.false_ne_true]
    have hdrawn : (v.takeAnswer.engineStep v.answer.1).draws = (s.platformStores s.nextCycle.stores).answer.2 := by
      rw [hdraws, ← hans]
      rfl
    rw [hack, if_pos rfl, hdrawn, hconsumed, State.answer_platformStores hb]
    split <;> exact ⟨rfl, rfl⟩

end Sys2Proof.Machine
end

section
/-! SUPPORT. The two formats of the encoding: the fields of an encoded word, and the decoder and the encoder on them
(spec/30_encoding.md R90–R95). -/

namespace Sys2Proof

/-! ### Fields -/

/-- OPC and OFF each have eight values (spec/30_encoding.md R91, R93). -/
theorem threeBits_cases (v : BitVec 3) :
    v = 0#3 ∨ v = 1#3 ∨ v = 2#3 ∨ v = 3#3 ∨ v = 4#3 ∨ v = 5#3 ∨ v = 6#3 ∨ v = 7#3 := by
  revert v; decide

@[simp] theorem opcOf_append (ign : BitVec 29) (opc : BitVec 3) : opcOf (ign ++ opc) = opc :=
  BitVec.extractLsb'_append_eq_right

@[simp] theorem ignOf_append (ign : BitVec 29) (opc : BitVec 3) : ignOf (ign ++ opc) = ign :=
  BitVec.extractLsb'_append_eq_left

/-- A command word is `{ign, OPC}` (spec/30_encoding.md R92). -/
theorem ignOf_append_opcOf (w : Word) : ignOf w ++ opcOf w = w := by
  refine BitVec.eq_of_getLsbD_eq fun i hi => BitVec.getLsbD_append.trans ?_
  by_cases h : i < 3
  · simp [opcOf, h]
  · simp [ignOf, h, show i - 3 < 29 by omega, show 3 + (i - 3) = i by omega]

section
variable (we : Bool) (off : BitVec 3) (low : BitVec 2)

@[simp] theorem weOf_accessCode : weOf (accessCode we off low) = we := by
  revert we off low; decide

@[simp] theorem offOf_accessCode : offOf (accessCode we off low) = off := by
  revert we off low; decide

@[simp] theorem lowOf_accessCode : lowOf (accessCode we off low) = low := by
  revert we off low; decide

end

/-- An access code is `{WE, OFF, haddr[1:0]}` (spec/30_encoding.md R90). -/
theorem accessCode_weOf_offOf_lowOf (code : BitVec 6) : accessCode (weOf code) (offOf code) (lowOf code) = code := by
  revert code; decide

/-! ### Commands -/

/-- The instruction of a command by its two fields (spec/30_encoding.md R93, R95). -/
def commandInstr (opc : BitVec 3) (ign : BitVec 29) : Instr :=
  match opc.toNat with
  | 0 => .cmdNop ign
  | 1 => .cmdHash8 ign
  | 2 => .cmdHash64 ign
  | 3 => .cmdClear ign
  | _ => .cmdReserved opc ign

theorem decode_command (w : Word) : decode (.command w) = commandInstr (opcOf w) (ignOf w) := rfl

theorem decode_commandWord (opc : BitVec 3) (ign : BitVec 29) :
    decode (commandWord opc ign) = commandInstr opc ign := by
  rw [commandWord, decode_command, opcOf_append, ignOf_append]

/-- OPC[2] = 1 makes a command a reserved one (spec/30_encoding.md R95). -/
theorem commandInstr_of_bit2 {opc : BitVec 3} (h : opc.getLsbD 2 = true) (ign : BitVec 29) :
    commandInstr opc ign = .cmdReserved opc ign := by
  obtain rfl | rfl | rfl | rfl : opc = 4#3 ∨ opc = 5#3 ∨ opc = 6#3 ∨ opc = 7#3 := by
    revert opc; decide
  all_goals rfl

/-- Every OPC has a row, whose instruction encodes with that OPC. -/
theorem commandInstr_encodes (opc : BitVec 3) (ign : BitVec 29) :
    (commandInstr opc ign).wellFormed = true ∧ encode (commandInstr opc ign) = commandWord opc ign := by
  obtain rfl | rfl | rfl | rfl | rfl | rfl | rfl | rfl := threeBits_cases opc
  all_goals exact ⟨rfl, rfl⟩

theorem HostItem.canonical_command (w : Word) :
    (HostItem.command w).canonical = commandWord (opcOf w) (ignOf w) := by
  rw [commandWord, ignOf_append_opcOf, HostItem.canonical]

/-! ### Accesses -/

theorem decode_access_of_read {code : BitVec 6} (h : weOf code = false) (data : Word) :
    decode (.access code data) = decodeRead (offOf code) (lowOf code) := by
  rw [decode, decodeAccess, h, if_neg Bool.false_ne_true]

theorem decode_access_of_write {code : BitVec 6} (h : weOf code = true) (data : Word) :
    decode (.access code data) = decodeWrite (offOf code) (lowOf code) data := by
  rw [decode, decodeAccess, h, if_pos rfl]

theorem decode_readAt (off : BitVec 3) (low : BitVec 2) : decode (readAt off low) = decodeRead off low := by
  rw [readAt, decode_access_of_read (weOf_accessCode false off low), offOf_accessCode, lowOf_accessCode]

theorem decode_writeAt (off : BitVec 3) (low : BitVec 2) (data : Word) :
    decode (writeAt off low data) = decodeWrite off low data := by
  rw [writeAt, decode_access_of_write (weOf_accessCode true off low), offOf_accessCode, lowOf_accessCode]

/-- Every offset has a read, which encodes with that offset. -/
theorem decodeRead_encodes (off : BitVec 3) (low : BitVec 2) :
    (decodeRead off low).wellFormed = true ∧ encode (decodeRead off low) = readAt off low := by
  obtain rfl | rfl | rfl | rfl | rfl | rfl | rfl | rfl := threeBits_cases off
  all_goals exact ⟨rfl, rfl⟩

/-- Every offset has a write, which encodes with that offset. -/
theorem decodeWrite_encodes (off : BitVec 3) (low : BitVec 2) (data : Word) :
    (decodeWrite off low data).wellFormed = true ∧ encode (decodeWrite off low data) = writeAt off low data := by
  obtain rfl | rfl | rfl | rfl | rfl | rfl | rfl | rfl := threeBits_cases off
  all_goals exact ⟨rfl, rfl⟩

theorem HostItem.canonical_of_read {code : BitVec 6} (h : weOf code = false) (data : Word) :
    (HostItem.access code data).canonical = readAt (offOf code) (lowOf code) := by
  rw [readAt, ← h, accessCode_weOf_offOf_lowOf, HostItem.canonical, h, if_neg Bool.false_ne_true]

theorem HostItem.canonical_of_write {code : BitVec 6} (h : weOf code = true) (data : Word) :
    (HostItem.access code data).canonical = writeAt (offOf code) (lowOf code) data := by
  rw [writeAt, ← h, accessCode_weOf_offOf_lowOf, HostItem.canonical, h, if_pos rfl]

/-! ### Encoding and decoding -/

/-- Settles O1: each constructor's encoding is a word of its format with the constructor's own OPC or OFF, and decoding
such a word looks at just these fields. -/
theorem decodeInvertsEncode : Obligations.DecodeInvertsEncode := by
  intro i hwf
  cases i with
  | cmdNop ign | cmdHash8 ign | cmdHash64 ign | cmdClear ign => exact decode_commandWord _ ign
  | cmdReserved code ign => exact (decode_commandWord code ign).trans (commandInstr_of_bit2 hwf ign)
  | rdCtrl low | rdStatus low | rdBase low | rdLen low => exact decode_readAt _ low
  | rdHash8 low | rdHash64Lo low | rdHash64Hi low | rdRsvd low => exact decode_readAt _ low
  | wrCtrl low data | wrStatus low data | wrBase low data | wrLen low data => exact decode_writeAt _ low data
  | wrHash8 low data | wrHash64Lo low data | wrHash64Hi low data | wrRsvd low data => exact decode_writeAt _ low data

/-- Settles O2: every word is that of its own fields, and every value of OPC and of OFF has a row. -/
theorem encodeInvertsDecode : Obligations.EncodeInvertsDecode := by
  intro item
  cases item with
  | command w =>
    rw [decode_command, HostItem.canonical_command]
    exact commandInstr_encodes _ _
  | access code data =>
    cases hwe : weOf code with
    | false =>
      rw [decode_access_of_read hwe, HostItem.canonical_of_read hwe]
      exact decodeRead_encodes _ _
    | true =>
      rw [decode_access_of_write hwe, HostItem.canonical_of_write hwe]
      exact decodeWrite_encodes _ _ _

/-- Settles O3: the fields of each of the nine words, read off the tables of spec/30_encoding.md. -/
theorem listedWordsDecodeToTheirInstructions : Obligations.ListedWordsDecodeToTheirInstructions :=
  ⟨rfl, rfl, rfl, rfl, rfl, rfl, rfl, rfl, rfl⟩

end Sys2Proof
end

section
/-! SUPPORT. The rows of the opcode table: each word is selected by one row, which bears the mnemonic of the instruction
it decodes to (spec/30_encoding.md R91, R93). -/

namespace Sys2Proof

/-! ### What a row looks at -/

/-- A row whose mask lies within `m` looks at the bits of `m` alone. -/
theorem OpRow.selects_and {width : Nat} {r : OpRow width} {m : BitVec width} (h : m &&& r.mask = r.mask)
    (w : BitVec width) : r.selects (w &&& m) = r.selects w := by
  rw [OpRow.selects, OpRow.selects, BitVec.and_assoc, h]

/-- The row mask of a command lies within OPC (spec/30_encoding.md R93). -/
theorem commandRow_mask {r : OpRow 32} (h : r ∈ commandRows) : 0x00000007#32 &&& r.mask = r.mask := by
  revert r; decide

/-- The row mask of an access lies within WE and OFF (spec/30_encoding.md R91). -/
theorem accessRow_mask {r : OpRow 6} (h : r ∈ accessRows) : 0x3C#6 &&& r.mask = r.mask := by
  revert r; decide

/-- A row of format CMD looks at OPC alone. -/
theorem commandRow_selects_append {r : OpRow 32} (h : r ∈ commandRows) (ign : BitVec 29) (opc : BitVec 3) :
    r.selects (ign ++ opc) = r.selects (opc.setWidth 32) := by
  rw [← OpRow.selects_and (commandRow_mask h), Laws.commandWord_opc]

/-- A row of format HBUS looks at WE and OFF alone. -/
theorem accessRow_selects_accessCode {r : OpRow 6} (h : r ∈ accessRows) (we : Bool) (off : BitVec 3) (low : BitVec 2) :
    r.selects (accessCode we off low) = r.selects (accessCode we off 0#2) := by
  rw [← OpRow.selects_and (accessRow_mask h), Laws.RowMatch.accessCode_selects]
  rfl

/-! ### One row for each word -/

/-- One row of format CMD selects a command, and the command bears its mnemonic (spec/30_encoding.md R93). -/
theorem commandRows_filter_selects (w : Word) :
    ∃ r, commandRows.filter (·.selects w) = [r] ∧ r.mnemonic = (decode (.command w)).mnemonic := by
  have hopc : commandRows.filter (·.selects w) = commandRows.filter (·.selects ((opcOf w).setWidth 32)) :=
    List.filter_congr fun r hr => by rw [← commandRow_selects_append hr (ignOf w), ignOf_append_opcOf]
  rw [hopc, decode_command]
  obtain h | h | h | h | h | h | h | h := threeBits_cases (opcOf w) <;> rw [h]
  all_goals exact ⟨_, rfl, rfl⟩

/-- One row of format HBUS selects an access, and the access bears its mnemonic (spec/30_encoding.md R91). -/
theorem accessRows_filter_selects (code : BitVec 6) (data : Word) :
    ∃ r, accessRows.filter (·.selects code) = [r] ∧ r.mnemonic = (decode (.access code data)).mnemonic := by
  have hcode : accessRows.filter (·.selects code) =
      accessRows.filter (·.selects (accessCode (weOf code) (offOf code) 0#2)) :=
    List.filter_congr fun r hr => by
      rw [← accessRow_selects_accessCode hr _ _ (lowOf code), accessCode_weOf_offOf_lowOf]
  rw [hcode]
  cases hwe : weOf code with
  | false =>
    rw [decode_access_of_read hwe]
    obtain h | h | h | h | h | h | h | h := threeBits_cases (offOf code) <;> rw [h]
    all_goals exact ⟨_, rfl, rfl⟩
  | true =>
    rw [decode_access_of_write hwe]
    obtain h | h | h | h | h | h | h | h := threeBits_cases (offOf code) <;> rw [h]
    all_goals exact ⟨_, rfl, rfl⟩

/-- Where one row selects a word and no two rows share a mnemonic, a row bears that row's mnemonic exactly if it selects
the word. -/
theorem OpRow.mnemonic_eq_iff_selects {width : Nat} {rows : List (OpRow width)} {w : BitVec width} {r₀ r : OpRow width}
    (hinj : ∀ a ∈ rows, ∀ b ∈ rows, a.mnemonic = b.mnemonic → a = b)
    (h : rows.filter (·.selects w) = [r₀]) (hr : r ∈ rows) :
    r₀.mnemonic = r.mnemonic ↔ r.selects w = true := by
  have hmem : ∀ r', r' ∈ rows ∧ r'.selects w = true ↔ r' = r₀ := fun r' =>
    List.mem_filter.symm.trans (h ▸ List.mem_singleton)
  constructor
  · intro heq
    obtain rfl := hinj r hr r₀ ((hmem r₀).2 rfl).1 heq.symm
    exact ((hmem r).2 rfl).2
  · intro hs
    rw [(hmem r).1 ⟨hr, hs⟩]

theorem commandRows_mnemonic_inj :
    ∀ a ∈ commandRows, ∀ b ∈ commandRows, a.mnemonic = b.mnemonic → a = b := by
  decide

/-- Settles O5: the row that selects the word is the only one, and the only one with its mnemonic. -/
theorem commandWordSelectsItsRow : Obligations.CommandWordSelectsItsRow := by
  intro w r hr
  obtain ⟨r₀, hrows, hmn⟩ := commandRows_filter_selects w
  rw [← hmn, OpRow.mnemonic_eq_iff_selects commandRows_mnemonic_inj hrows hr, OpRow.selects, beq_iff_eq]

/-- Settles O4: the one row that selects an access bears its mnemonic. -/
theorem accessCodeSelectsExactlyOneRow : Obligations.AccessCodeSelectsExactlyOneRow := by
  intro code data
  obtain ⟨r, hrows, hmn⟩ := accessRows_filter_selects code data
  rw [hrows, List.map_singleton, hmn]

end Sys2Proof
end

section
/-! SUPPORT. What a command word, an access presented to the port, and a running operation make of a cycle
(spec/30_encoding.md R90, R94, R96). -/

namespace Sys2Proof.Machine

/-! ### Command words -/

/-- A CTRL write looks at OPC alone (spec/30_encoding.md R94). -/
theorem State.issueCommand_congr {w w' : Word} (h : opcOf w = opcOf w') (s : State) :
    s.issueCommand w = s.issueCommand w' := by
  rw [State.issueCommand, State.issueCommand, h]

theorem exec_wrCtrl (low : BitVec 2) (data : Word) (s : State) :
    exec (.wrCtrl low data) s = .next (s.issueCommand data) := rfl

/-- Settles O6: in either form a command is what CTRL makes of its word, which looks at OPC alone. -/
theorem ignoredCommandBitsChangeNothing : Obligations.IgnoredCommandBitsChangeNothing := by
  intro w w' low s hopc
  have hissue : s.issueCommand w = s.issueCommand w' := State.issueCommand_congr hopc s
  rw [decode, decode, exec_decodeCommand, exec_decodeCommand, exec_wrCtrl, exec_wrCtrl, hissue]
  exact ⟨rfl, rfl⟩

/-! ### The message while an operation runs -/

theorem State.engineStep_operands (s : State) (b : Byte) :
    (s.engineStep b).base = s.base ∧ (s.engineStep b).len = s.len := by
  obtain ⟨_, _, _, _, _, _, _, _, _, h⟩ := s.engineStep_frame b
  rw [h]
  exact ⟨rfl, rfl⟩

/-- Settles O38: while an operation runs the host access leaves BASE and LEN as they are, the engine writes neither them
nor memory, and so only the platform's writes could change the message. -/
theorem messageIsFixedWhileBusy : Obligations.MessageIsFixedWhileBusy := by
  intro s t hop hr h
  obtain ⟨x, hx, hmem, -, hcase⟩ := step_of_busy ((State.busy_iff s).2 hop) hr h
  have hmsg (hst : s.nextCycle.stores = []) : x.message = s.message :=
    State.message_congr hx.cfg hx.base hx.len (by rw [hmem, hst, State.platformStores_nil])
  obtain ⟨-, rfl⟩ | ⟨-, b, -, rfl⟩ := hcase
  · exact ⟨hx.base, hx.len, hmsg⟩
  · obtain ⟨hbase, hlen⟩ := x.engineStep_operands b
    exact ⟨hbase.trans hx.base, hlen.trans hx.len, fun hst => (x.message_engineStep b).trans (hmsg hst)⟩

/-! ### The access of a cycle -/

/-- A cycle without reset runs the instruction its access decodes to, and then the rest of the cycle
(spec/70_reset_and_hazards.md R273). -/
theorem runCycle_of_host {c : Cycle} {s t : State} {item : HostItem} (hr : c.rst = false) (hh : c.host = some item)
    (he : exec (decode item) s = .next t) : runCycle c s = .next (t.afterHost s.busy c) := by
  simp [runCycle, hr, hh, he]

/-- The item of a table word is what it decodes by (log entry 14). -/
theorem decodeTableWord_eq_some {nbits w : Nat} {i : Instr} (h : decodeTableWord nbits w = some i) :
    ∃ item, itemOfWord nbits w = .ok item ∧ decode item = i := by
  unfold decodeTableWord at h
  split at h
  · next item hitem => exact ⟨item, hitem, Option.some.inj h⟩
  · cases h

/-- A table word is presented as the item it stands for (log entry 3). -/
theorem State.withFetchWord_of_ok {nbits w : Nat} {item : HostItem} (h : itemOfWord nbits w = .ok item) (s : State) :
    s.withFetchWord nbits w = s.presentItem item := by
  rw [State.withFetchWord, State.presentWord, h]

/-- Settles O31: a step is the cycle of the next input, and a presented word is the access of that input. -/
theorem stepRunsTheDecodedInstruction : Obligations.StepRunsTheDecodedInstruction := by
  refine ⟨fun s t item hr hh he => runCycle_of_host hr hh he, fun s nbits w i h => ?_⟩
  obtain ⟨item, hitem, rfl⟩ := decodeTableWord_eq_some h
  rw [State.withFetchWord_of_ok hitem]
  exact ⟨rfl, rfl, rfl⟩

end Sys2Proof.Machine
end

section
/-! SUPPORT. The substitution LUT: its given entries, what they make of a message, and that no cycle changes it
(spec/40_lut.md R124, R125, spec/70_reset_and_hazards.md R263). -/

namespace Sys2Proof.Machine

/-! ### The configuration across a cycle -/

/-- An engine step looks the table up and leaves the configuration as it is. -/
@[simp] theorem State.engineStep_cfg (s : State) (b : Byte) : (s.engineStep b).cfg = s.cfg := by
  obtain ⟨_, _, _, _, _, _, _, _, _, h⟩ := s.engineStep_frame b
  rw [h]

@[simp] theorem State.engineCycle_cfg (s : State) (c : Cycle) : (s.engineCycle c).cfg = s.cfg := by
  obtain ⟨-, -, h⟩ | ⟨-, -, h⟩ | ⟨-, -, h⟩ | ⟨-, -, h⟩ := s.engineCycle_cases c <;> rw [h]
  · exact s.takeAnswer.engineStep_cfg _
  · exact s.engineStep_cfg _

@[simp] theorem State.afterHost_cfg (s : State) (wasBusy : Bool) (c : Cycle) : (s.afterHost wasBusy c).cfg = s.cfg := by
  unfold State.afterHost
  split <;> simp

/-- The parameters are not reset values: a reset cycle keeps them (spec/70_reset_and_hazards.md R263). -/
@[simp] theorem State.resetCycle_cfg (s : State) (c : Cycle) : (s.resetCycle c).cfg = s.cfg := by
  obtain ⟨m, w, h⟩ := s.resetCycle_eq c
  rw [h]
  rfl

/-- No cycle changes a parameter, whatever it holds: reset, the host access, the platform's writes and the engine each
keep the configuration. -/
theorem step_cfg {s t : State} (h : step s = .next t) : t.cfg = s.cfg := by
  obtain ⟨-, rfl⟩ | ⟨-, u, hu, rfl⟩ := step_cases h
  · exact s.popInput.resetCycle_cfg _
  · rw [State.afterHost_cfg]
    obtain ⟨-, rfl⟩ | ⟨item, -, he⟩ := hu
    · rfl
    · obtain ⟨hcfg, -⟩ := exec_frame he
      exact hcfg

/-- Settles O36: the configuration is kept, and the LUT is a part of it. -/
theorem configurationNeverChanges : Obligations.ConfigurationNeverChanges := by
  intro s t h
  have hcfg := step_cfg h
  exact ⟨hcfg, fun i => by rw [hcfg]⟩

/-! ### The given entries of the default table (spec/40_lut.md R124) -/

@[simp] theorem lut_repository_00 : lut .repository 0x00#8 = 0x62#8 := rfl
@[simp] theorem lut_repository_01 : lut .repository 0x01#8 = 0x06#8 := rfl
@[simp] theorem lut_repository_61 : lut .repository 0x61#8 = 0xD0#8 := rfl
@[simp] theorem lut_repository_68 : lut .repository 0x68#8 = 0x62#8 := rfl

/-- The hash of one byte is its table entry (spec/41_byte_hash.md R142). -/
theorem byteHash_singleton (b : Byte) (t : Table) : byteHash [b] t = lut t b := by
  simp [byteHash]

/-- The table that reset leaves in the default configuration is the repository's (spec/92_eei_decisions.md D35). -/
theorem reset_table : State.reset.cfg.table = .repository := rfl

/-- The vector of spec/95_test_vectors.md section 2.2: each byte brings the fold back to a given entry. -/
theorem byteHash_68_0A_03 : byteHash [0x68#8, 0x0A#8, 0x03#8] .repository = 0xD0#8 :=
  have h₁ : byteHash [0x68#8] .repository = 0x62#8 := (byteHash_singleton _ _).trans lut_repository_68
  have h₂ : byteHash [0x68#8, 0x0A#8] .repository = 0x62#8 :=
    calc byteHash ([0x68#8] ++ [0x0A#8]) .repository
      _ = lut .repository (0x62#8 ^^^ 0x0A#8) := by rw [byteHash_concat, h₁]
      _ = 0x62#8 := lut_repository_68
  calc byteHash ([0x68#8, 0x0A#8] ++ [0x03#8]) .repository
    _ = lut .repository (0x62#8 ^^^ 0x03#8) := by rw [byteHash_concat, h₂]
    _ = 0xD0#8 := lut_repository_61

/-- Settles O57: the given entries, and the hashes that look up no other. -/
theorem defaultTableKnownEntries : Obligations.DefaultTableKnownEntries := by
  unfold Obligations.DefaultTableKnownEntries
  rw [reset_table, byteHash_singleton, byteHash_singleton, byteHash_singleton]
  exact ⟨lut_repository_00, lut_repository_01, lut_repository_61, lut_repository_68,
    lut_repository_00, lut_repository_61, lut_repository_68, byteHash_68_0A_03⟩

end Sys2Proof.Machine
end

section
/-! SUPPORT. Each part of a clock cycle keeps the progress of the operation that runs (spec/41_byte_hash.md R147,
spec/42_hash64.md R175–R180, spec/70_reset_and_hazards.md R270). -/

namespace Sys2Proof.Machine

/-! ### The host access -/

section
variable {s : State}

/-- There is nothing to keep of an operation that does not run. -/
theorem State.progress_of_idle (ho : s.op = .none) : s.Progress := by
  intro _
  simp only [ho]

/-- ACC is 0, the byte hash of no bytes, before the first step of a HASH8 (spec/41_byte_hash.md R141, R143). -/
theorem State.Started.progress_h8 {u : State} (h : s.Started .h8 u) : u.Progress := by
  rw [State.progress_h8 h.operating.op]
  intro _
  have hidx : u.idx.toNat = 0 := by simpa only [State.stepsDone, h.operating.op] using h.stepsDone
  rw [hidx]
  exact h.acc

theorem State.Progress.startHash8 (hp : s.Progress) : s.startHash8.Progress := by
  cases hb : s.busy with
  | true => rw [State.startHash8_busy hb]; exact hp
  | false =>
    by_cases hn : s.len = 0#32
    · rw [State.startHash8_idle hb, if_pos hn]
      exact State.progress_of_idle (s.not_busy_iff.1 hb)
    · exact (State.startHash8_started hb hn).progress_h8

theorem State.Progress.startHash64 (hp : s.Progress) : s.startHash64.Progress := by
  cases hb : s.busy with
  | true => rw [State.startHash64_busy hb]; exact hp
  | false =>
    by_cases hn : s.len = 0#32
    · rw [State.startHash64_idle hb, if_pos hn]
      exact State.progress_of_idle (s.not_busy_iff.1 hb)
    · obtain ⟨-, -, hm⟩ := State.startHash64_of_idle hb hn
      exact hm.progress

/-- A host access starts an operation or leaves the one that runs as it is. -/
theorem State.Progress.exec (hp : s.Progress) {i : Instr} {t : State} (he : Machine.exec i s = .next t) :
    t.Progress := by
  obtain rfl | ⟨w, rfl⟩ | rfl | rfl | rfl | rfl | ⟨-, rfl⟩ | ⟨hb, d, rfl⟩ | ⟨hb, d, rfl⟩ := exec_cases he
  · exact hp
  · exact hp
  · exact hp
  · exact hp
  · exact hp.startHash8
  · exact hp.startHash64
  · exact hp
  · exact State.progress_of_idle (s.not_busy_iff.1 hb)
  · exact State.progress_of_idle (s.not_busy_iff.1 hb)

/-! ### The platform's writes -/

/-- Writes to the message end what is claimed of its operation, and writes elsewhere leave the message as it was
(spec/70_reset_and_hazards.md R270). -/
theorem State.Progress.platformStores (hp : s.Progress) (c : Cycle) : (s.platformStores c.stores).Progress := by
  have hx := s.sameEngine_platformStores c.stores
  cases hb : s.busy with
  | false => exact State.progress_of_idle (hx.op.trans (s.not_busy_iff.1 hb))
  | true =>
    intro hi
    obtain ⟨hold, hl⟩ := (State.messageIntact_platformStores hb c).1 hi
    exact hx.progress (State.message_platformStores hl) hold hp hi

end

/-! ### The engine -/

/-- A step on the byte due keeps the progress of its operation or ends it. -/
theorem State.Progress.engineStep {op : Op} {s x : State} (hp : x.Progress) (h : s.Operating op x)
    (hlen : s.len.toNat < 2 ^ s.cfg.lw) {b : Byte} (hb : x.MessageIntact → x.dueByte = some b) :
    (x.engineStep b).Progress := by
  cases hl : x.lastStep with
  | true => exact State.progress_of_idle (State.engineStep_op_of_lastStep hl b)
  | false =>
    intro hi
    have hix := (x.messageIntact_engineStep b).1 hi
    exact h.progress_engineStep hlen hl hix hp (hb hix) hi

theorem State.engineCycle_of_idle {s : State} (hb : s.busy = false) (c : Cycle) : s.engineCycle c = s := by
  have hn : s.readNeeded = false := by simp [State.readNeeded, hb]
  rw [State.engineCycle, hn, if_neg Bool.false_ne_true, State.engineStep, s.not_busy_iff.1 hb]
  exact ite_self s

/-- The engine steps on the steered byte or the memory's answer, which are the byte due while the message is intact. -/
theorem State.Progress.engineCycle {s : State} (hp : s.Progress) (hw : s.Wf) {c : Cycle} (hr : c.rst = false) :
    (s.engineCycle c).Progress := by
  cases hb : s.busy with
  | false => rw [State.engineCycle_of_idle hb]; exact hp
  | true =>
    have ho : s.Operating s.op s := ⟨rfl, hb, rfl, rfl, rfl, hw.idx_in_message hb⟩
    have hs : s.SameEngine s := by constructor <;> rfl
    obtain ⟨r, n, ⟨-, he⟩ | ⟨-, he⟩⟩ := State.engineCycle_of_busy hb hr
    · rw [he]; exact hp
    · rw [he]
      exact State.Progress.engineStep (x := { s with rdpend := r, draws := n }) hp
        (ho.sameEngine (hs.withRequest r n)) hw.len_lt fun hi =>
          State.dueByte_eq_steeredByte_or_answer hp hi ho.idx_lt

/-! ### The cycle -/

theorem State.Progress.afterHost {s : State} (hp : s.Progress) (hw : s.Wf) (wasBusy : Bool) {c : Cycle}
    (hr : c.rst = false) : (s.afterHost wasBusy c).Progress := by
  unfold State.afterHost
  split
  · exact (hp.platformStores c).engineCycle (hw.platformStores c.stores) hr
  · exact hp.platformStores c

theorem State.resetCycle_op (s : State) (c : Cycle) : (s.resetCycle c).op = .none := by
  obtain ⟨m, w, h⟩ := s.resetCycle_eq c
  rw [h]
  rfl

/-- Settles O47: a reset ends the operation, and the host access, the platform's writes and the engine each keep its
progress. -/
theorem progressIsKept : Obligations.ProgressIsKept := by
  intro s t hw hp h
  obtain ⟨-, rfl⟩ | ⟨hr, u, hu, rfl⟩ := step_cases h
  · exact State.progress_of_idle (State.resetCycle_op _ _)
  · obtain ⟨-, rfl⟩ | ⟨item, -, he⟩ := hu
    · exact State.Progress.afterHost (s := s.popInput) hp hw.popInput s.busy hr
    · exact (State.Progress.exec (s := s.popInput) hp he).afterHost (hw.popInput.exec he) s.busy hr

end Sys2Proof.Machine
end

section
/-! SUPPORT. The 8-bit hash: the step that ends a HASH8, its run in a prompt environment, the effect of the command, and
the function (spec/41_byte_hash.md R141–R151). -/

namespace Sys2Proof.Machine

/-! ### The step that ends a HASH8 -/

/-- The last byte of a HASH8 completes the byte hash of the message (spec/41_byte_hash.md R149). -/
theorem State.fold_eq_byteHash_of_lastByte {x : State} {b : Byte} (ho : x.op = .h8) (hl : x.lastByte = true)
    (hi : x.MessageIntact) (hp : x.Progress) (hb : x.dueByte = some b) :
    x.fold b = byteHash x.message x.cfg.table := by
  rw [State.dueByte_of_h8 ho] at hb
  have htake := State.take_perturb_of_lastByte hl 0
  rw [perturb_zero] at htake
  rw [State.fold_eq ((State.progress_h8 ho).1 hp hi) hb, htake]

theorem State.finishesIn_iff {s : State} {c : Cycle} :
    s.finishesIn c = true ↔ s.stepsIn c = true ∧ s.lastStep = true := Bool.and_eq_true_iff

theorem State.stepsIn_running {s : State} {c : Cycle} (h : s.stepsIn c = true) : c.rst = false ∧ s.busy = true := by
  simp only [State.stepsIn, Bool.and_eq_true, Bool.not_eq_true'] at h
  obtain ⟨hrun, -⟩ := h
  exact hrun

/-- Settles O48: the last fold is that of the last byte of the message, which the duty leaves as it was, and the last
step stores it. -/
theorem hash8ResultAtFinish : Obligations.Hash8ResultAtFinish := by
  intro s t hw hp ho hi hl hf h
  obtain ⟨hs, hlast⟩ := State.finishesIn_iff.1 hf
  obtain ⟨hr, hb⟩ := State.stepsIn_running hs
  obtain ⟨x, hx, hmem, hdist, ⟨hs', -⟩ | ⟨-, b, hc, rfl⟩⟩ := step_of_busy hb hr h
  · exact nomatch hs.symm.trans hs'
  have hm : s.OnMessage x := State.OnMessage.of_stores ⟨rfl, hi, hp⟩ hb hl hx hmem hdist
  have hox : x.op = .h8 := hx.op.trans ho
  have hbyte : x.lastByte = true := (State.lastStep_h8 hox).symm.trans (hx.lastStep.trans hlast)
  have hdue : x.dueByte = some b := by
    rw [hx.dueByte hm.message, ← hc, State.consumed_eq_dueByte hb hp hi hl (hw.idx_in_message hb) hs]
  have hfold := State.fold_eq_byteHash_of_lastByte hox hbyte hm.intact hm.progress hdue
  rw [hm.message, hx.cfg] at hfold
  have hmsg := (x.message_engineStep b).trans hm.message
  rw [State.engineStep_h8 hox, State.stepHash8_eq, if_pos hbyte] at hmsg ⊢
  exact ⟨hfold, rfl, rfl, hx.hash64, hx.base, hx.len, hmsg⟩

/-! ### The run -/

/-- DONE rises when BUSY falls without a reset (spec/41_byte_hash.md R150). -/
theorem done_of_busy_falls {s t : State} (hb : s.busy = true) (hr : s.nextCycle.rst = false) (h : step s = .next t)
    (ht : t.busy = false) : t.done = true := by
  obtain ⟨-, hbusy⟩ := busyFlagLaw s t h
  obtain ⟨hdone, -⟩ := doneFlagLaw s t h
  rw [State.statusWord_bit0, State.statusWord_bit0, hb, ht, hr] at hbusy
  have hf : s.finishesIn s.nextCycle = true := by simpa using hbusy
  rw [hdone, hr, hf]
  rfl

/-- A cycle without platform writes leaves the memory as it is (spec/20_memory.md R64). -/
theorem step_mem {s t : State} (hst : s.nextCycle.stores = []) (h : step s = .next t) : t.mem = s.mem := by
  obtain ⟨-, rfl⟩ | ⟨-, u, hu, rfl⟩ := step_cases h
  · rw [State.resetCycle_mem, hst]
    rfl
  · rw [State.afterHost_mem, hst, State.platformStores_nil]
    obtain ⟨-, rfl⟩ | ⟨item, -, he⟩ := hu
    · rfl
    · obtain ⟨-, hm, -⟩ := exec_frame he
      exact hm

theorem runs_mem {k : Nat} {s t : State} (hst : ∀ c ∈ s.inputs.take k, c.stores = []) (hr : runs k s = some t) :
    t.mem = s.mem := by
  induction k generalizing s with
  | zero =>
    injection hr with hr
    rw [hr]
  | succ k ih =>
    obtain ⟨u, hu⟩ := exists_step_eq_next s
    rw [runs_succ hu] at hr
    rw [ih (step_inputs_take hu hst) hr, step_mem (State.nextCycle_of_take hst rfl) hu]

theorem OperationRun.done {op : Op} {k : Nat} {s t : State} (h : OperationRun op.command k s t)
    (ht : t.busy = false) : t.done = true := by
  revert ht
  refine h.induction (M := fun _ t => t.busy = false → t.done = true) (fun t h0 hst ht => ?_)
    fun k u t _ hub hr _ hst ht => done_of_busy_falls hub hr hst ht
  obtain ⟨ho, -⟩ := operating_of_accepted h0.accepted h0.command h0.nonempty hst
  exact nomatch ho.busy.symm.trans ht

/-- HASH64 changes only when a HASH64 completes (spec/10_state.md R27). -/
theorem OperationRun.hash64_of_hash8 {k : Nat} {s t : State} (hw : s.Wf) (h : OperationRun isHash8 k s t) :
    t.hash64 = s.hash64 := by
  have hkeep : ∀ u t : State, u.nextCycle.rst = false → step u = .next t → u.op ≠ .h64 → t.hash64 = u.hash64 := by
    intro u t hr hst hop
    obtain ⟨-, hchange⟩ := resultsChangeOnlyAtCompletion u t hst hr
    refine Decidable.byContradiction fun hne => ?_
    obtain ⟨-, -, h64⟩ := hchange hne
    exact hop h64
  refine h.induction (M := fun _ t => t.hash64 = s.hash64) (fun t h0 hst => ?_) fun k u t hrun hub hr ih hst => ?_
  · obtain ⟨hr, hb, -⟩ := State.acceptsIn_iff.1 h0.accepted
    exact hkeep s t hr hst (by simp [s.not_busy_iff.1 hb])
  · have ho := OperationRun.operating (op := .h8) hw hrun hub
    exact (hkeep u t hr hst (by simp [ho.op])).trans ih

/-- Settles O50: a prompt environment runs the operation to its end in as many cycles as it has steps, and with no write
in any of them the bytes read are the message. -/
theorem hash8RunsToItsResult : Obligations.Hash8RunsToItsResult := by
  intro s hw ha hc hn hst hp
  obtain ⟨t, hrun, ht⟩ := exists_operationRun_of_prompt (op := .h8) hw ha hc hn hp
  have hstores : ∀ c ∈ s.inputs.take (stepCount .h8 s.cfg.engines s.len.toNat + 1), c.stores = [] := by
    refine State.forall_take_inputs hst fun c h => ?_
    obtain ⟨-, hnone, -⟩ := Cycle.prompt_iff.1 (State.prompt_of_promptFor hp c h)
    exact hnone
  obtain ⟨hash, -, hbytes⟩ := hash8FoldsTheBytesItRead _ s t hw hrun ht
  rw [hbytes fun c h => s.leavesMessage_of_no_stores (hstores c h)] at hash
  exact ⟨t, hrun.ends_in, ht, hrun.done ht, hash, OperationRun.hash64_of_hash8 hw hrun, runs_mem hstores hrun.ends_in⟩

/-! ### The command and the function -/

/-- Settles O22: refused while busy; while idle it completes at once on the empty message, or starts. -/
theorem hash8CommandEffect : Obligations.Hash8CommandEffect := by
  intro ign s
  refine ⟨[], congrArg Host.Outcome.next ?_⟩
  cases hb : s.busy with
  | true => rw [State.startHash8_busy hb, if_pos (s.busy_iff.1 hb)]; rfl
  | false => rw [State.startHash8_idle hb, if_neg (not_not_intro (s.not_busy_iff.1 hb))]

/-- Settles O55: the fold over no byte, over one byte, and over one byte more. -/
theorem byteHashFoldsThroughTheTable : Obligations.ByteHashFoldsThroughTheTable :=
  fun t m b => ⟨rfl, byteHash_singleton b t, byteHash_concat m b t⟩

end Sys2Proof.Machine
end

section
/-! SUPPORT. An engine step before the last byte of its run, in each operation and organisation (spec/41_byte_hash.md
R147, spec/42_hash64.md R175, R177, R180). -/

namespace Sys2Proof.Machine

/-- `t` is `s` after an engine step that folded the byte `b` and went on to the next index. -/
structure State.Folds (s : State) (b : Byte) (t : State) : Prop where
  op : t.op = s.op
  iter : t.iter = s.iter
  lanes : t.lanes = s.lanes
  hash8 : t.hash8 = s.hash8
  hash64 : t.hash64 = s.hash64
  idx : t.idx.toNat = s.idx.toNat + 1
  /-- The first byte of a HASH64 is kept (spec/42_hash64.md R177). -/
  fb : t.fb = if s.op = .h64 ∧ s.idx = 0#32 ∧ s.iter = 0#3 then b else s.fb
  /-- One accumulator runs (spec/41_byte_hash.md R147). -/
  acc : s.op = .h8 ∨ s.cfg.engines = .one →
    t.acc = lut s.cfg.table (s.acc ^^^ b) ∧ ∀ k (h : k < 8), 0 < k → t.accv[k] = s.accv[k]
  /-- Eight accumulators run (spec/42_hash64.md R180). -/
  accv : s.op = .h64 → s.cfg.engines = .eight → ∀ k (h : k < 8),
    t.accv[k] = lut s.cfg.table (s.accv[k] ^^^ (if s.idx = 0#32 then b + BitVec.ofNat 8 k else b))

theorem State.SameEngine.folds {s x t : State} {b : Byte} (hx : s.SameEngine x) (h : x.Folds b t) : s.Folds b t where
  op := h.op.trans hx.op
  iter := h.iter.trans hx.iter
  lanes := h.lanes.trans hx.lanes
  hash8 := h.hash8.trans hx.hash8
  hash64 := h.hash64.trans hx.hash64
  idx := by rw [h.idx, hx.idx]
  fb := by rw [h.fb, hx.op, hx.idx, hx.iter, hx.fb]
  acc := by simpa only [State.acc, hx.op, hx.cfg, hx.accv] using h.acc
  accv := by simpa only [hx.op, hx.cfg, hx.idx, hx.accv] using h.accv

/-- A step of the single accumulator writes ACC and no other lane of ACCV. -/
theorem State.acc_set_fold {s t : State} {b : Byte} (h : t.accv = s.accv.set 0 (s.fold b)) :
    t.acc = lut s.cfg.table (s.acc ^^^ b) ∧ ∀ k (h : k < 8), 0 < k → t.accv[k] = s.accv[k] := by
  refine ⟨?_, fun k hk h0 => ?_⟩
  · rw [State.acc, h]
    exact State.acc_setAcc s (s.fold b)
  · simp only [h]
    exact Vector.getElem_set_ne _ _ (by omega)

section
variable {op : Op} {s x : State} {b : Byte}

theorem State.Operating.folds_engineStep_h8 (h : s.Operating .h8 x) (hlen : s.len.toNat < 2 ^ s.cfg.lw)
    (hl : x.lastByte = false) : x.Folds b (x.engineStep b) := by
  have hop := h.op
  obtain ⟨hidx, -⟩ := h.nextIdx_toNat hlen hl
  rw [State.engineStep_h8 hop, State.stepHash8_eq, hl, if_neg Bool.false_ne_true]
  exact
    { op := rfl, iter := rfl, lanes := rfl, hash8 := rfl, hash64 := rfl, idx := hidx
      fb := (if_neg (by simp [hop])).symm
      acc := fun _ => State.acc_set_fold rfl
      accv := fun h64 => nomatch hop.symm.trans h64 }

theorem State.Operating.folds_engineStep_one (h : s.Operating .h64 x) (he : x.cfg.engines = .one)
    (hlen : s.len.toNat < 2 ^ s.cfg.lw) (hl : x.lastByte = false) : x.Folds b (x.engineStep b) := by
  have hop := h.op
  obtain ⟨hidx, -⟩ := h.nextIdx_toNat hlen hl
  rw [State.engineStep_h64_one hop he, State.stepHash64Seq_eq, hl, if_neg Bool.false_ne_true]
  exact
    { op := rfl, iter := rfl, lanes := rfl, hash8 := rfl, hash64 := rfl, idx := hidx
      fb := by simp only [State.capturedFb, hop, true_and]
      acc := fun _ => State.acc_set_fold rfl
      accv := fun _ h8 => nomatch he.symm.trans h8 }

/-- ITER is 0 throughout in the parallel organisation (spec/10_state.md R42). -/
theorem State.Operating.folds_engineStep_eight (h : s.Operating .h64 x) (he : x.cfg.engines = .eight)
    (hit : x.iter = 0#3) (hlen : s.len.toNat < 2 ^ s.cfg.lw) (hl : x.lastByte = false) :
    x.Folds b (x.engineStep b) := by
  have hop := h.op
  obtain ⟨hidx, -⟩ := h.nextIdx_toNat hlen hl
  rw [State.engineStep_h64_eight hop he, State.stepHash64Par_eq, hl, if_neg Bool.false_ne_true]
  exact
    { op := rfl, iter := rfl, lanes := rfl, hash8 := rfl, hash64 := rfl, idx := hidx
      fb := by simp only [hop, hit, true_and, and_true]
      acc := fun hone => hone.elim (fun h8 => nomatch hop.symm.trans h8) fun h1 => nomatch he.symm.trans h1
      accv := fun _ _ k hk => by simp [State.foldLanes, State.laneByte] }

end

/-- A step that is not at the last byte folds its byte, in every operation and organisation. -/
theorem State.Operating.folds_engineStep {op : Op} {s x : State} (h : s.Operating op x)
    (hlen : s.len.toNat < 2 ^ s.cfg.lw) (hit : x.cfg.engines = .eight → x.iter = 0#3) (hl : x.lastByte = false)
    (b : Byte) : x.Folds b (x.engineStep b) := by
  cases op with
  | none => exact absurd h.op ((State.busy_iff x).1 h.busy)
  | h8 => exact h.folds_engineStep_h8 hlen hl
  | h64 =>
    cases he : x.cfg.engines with
    | one => exact h.folds_engineStep_one he hlen hl
    | eight => exact h.folds_engineStep_eight he (hit he) hlen hl

theorem State.stepsIn_of_consumed {s : State} {c : Cycle} {b : Byte} (h : s.consumed c = some b) :
    s.stepsIn c = true := by
  cases hs : s.stepsIn c with
  | true => rfl
  | false => exact nomatch (State.consumed_eq_none hs).symm.trans h

theorem State.SameEngine.lastByte {s x : State} (h : s.SameEngine x) : x.lastByte = s.lastByte := by
  rw [State.lastByte, State.lastByte, h.idx, h.len]

/-- Settles O40: the byte consumed is the one the step folds, and neither the host access nor the platform's writes
touch a register of the operation. -/
theorem engineStepFoldsOneByte : Obligations.EngineStepFoldsOneByte := by
  intro s t b hw h hc hl
  have hs := State.stepsIn_of_consumed hc
  obtain ⟨hr, hb⟩ := State.stepsIn_running hs
  obtain ⟨x, hx, -, -, ⟨hs', -⟩ | ⟨-, b', hc', rfl⟩⟩ := step_of_busy hb hr h
  · exact nomatch hs.symm.trans hs'
  obtain rfl : b = b' := Option.some.inj (hc.symm.trans hc')
  have ho : s.Operating s.op s := ⟨rfl, hb, rfl, rfl, rfl, hw.idx_in_message hb⟩
  have hit : x.cfg.engines = .eight → x.iter = 0#3 := fun he =>
    hx.iter.trans (hw.eight_engines (hx.cfg ▸ he)).2
  have hfold := hx.folds ((ho.sameEngine hx).folds_engineStep hw.len_lt hit (hx.lastByte.trans hl) b)
  exact ⟨hfold.op, hfold.iter, hfold.lanes, hfold.hash8, hfold.hash64, hfold.idx, hfold.fb, hfold.acc, hfold.accv⟩

end Sys2Proof.Machine
end

section
/-! SUPPORT. The 64-bit hash: the function, the command, the ends of its iterations, the step that ends it, and its run
in a prompt environment (spec/42_hash64.md R171–R179, R185, R186). -/

namespace Sys2Proof.Machine

/-! ### The function -/

/-- Bytes summed into lanes 0 … n−1 leave nothing above lane n−1. -/
theorem getLsbD_sum_shifted (f : Nat → Byte) {n : Nat} (hn : n ≤ 8) {j : Nat} (hj : 8 * n ≤ j) :
    ((List.range n).foldl (fun r k => r + ((f k).setWidth 64 <<< (8 * k))) 0#64).getLsbD j = false := by
  by_cases h64 : j < 64
  · rw [getLsbD_eq_laneOf, laneOf_sum_shifted f hn (by omega), if_neg (by omega), BitVec.getLsbD_zero]
  · exact BitVec.getLsbD_of_ge _ _ (by omega)

/-- The sum of bytes shifted to lanes of their own never carries: it is their OR (R172). -/
theorem sum_shifted_eq_or (f : Nat → Byte) {n : Nat} (hn : n ≤ 8) :
    (List.range n).foldl (fun r k => r + ((f k).setWidth 64 <<< (8 * k))) 0#64 =
      (List.range n).foldl (fun r k => r ||| ((f k).setWidth 64 <<< (8 * k))) 0#64 := by
  induction n with
  | zero => rfl
  | succ n ih =>
    have hand : (List.range n).foldl (fun r k => r + ((f k).setWidth 64 <<< (8 * k))) 0#64 &&&
        ((f n).setWidth 64 <<< (8 * n)) = 0#64 := by
      apply BitVec.eq_of_getLsbD_eq
      intro j _
      rw [BitVec.getLsbD_and]
      by_cases hj : j < 8 * n
      · simp [hj]
      · simp [getLsbD_sum_shifted f (Nat.le_of_succ_le hn) (Nat.le_of_not_lt hj)]
    rw [List.range_succ, List.foldl_append, List.foldl_append, ← ih (Nat.le_of_succ_le hn)]
    exact BitVec.add_eq_or_of_and_eq_zero _ _ hand

/-- Settles O56: each byte hash stands in its own lane of the sum, which is the OR and the concatenation of the lanes. -/
theorem hash64LanesAreIndependent : Obligations.Hash64LanesAreIndependent := by
  intro m0 m t
  refine ⟨fun k hk => laneOf_hash64 (m0 :: m) t hk, sum_shifted_eq_or _ (Nat.le_refl 8), ?_⟩
  apply eq_of_laneOf_eq
  intro k hk
  rw [laneOf_hash64 _ _ hk, laneOf_packLanes _ _ hk, Vector.getElem_ofFn]

/-! ### The command -/

/-- Settles O23: refused while busy; while idle it completes at once on the empty message, or starts. -/
theorem hash64CommandEffect : Obligations.Hash64CommandEffect := by
  intro ign s
  refine ⟨[], congrArg Host.Outcome.next ?_⟩
  cases hb : s.busy with
  | true => rw [State.startHash64_busy hb, if_pos (s.busy_iff.1 hb)]; rfl
  | false =>
    rw [State.startHash64_idle hb, if_neg (not_not_intro (s.not_busy_iff.1 hb))]
    cases he : s.cfg.engines <;> rfl

/-! ### One step of the sequential organisation -/

section
variable {x : State} (ho : x.op = .h64) (he : x.cfg.engines = .one)
include ho he

/-- Before the last byte of its iteration (spec/42_hash64.md R175, R177). -/
theorem State.engineStep_one_of_not_lastByte (hl : x.lastByte = false) (b : Byte) :
    x.engineStep b = { x with fb := x.capturedFb b, accv := x.accv.set 0 (x.fold b), idx := x.nextIdx } := by
  rw [State.engineStep_h64_one ho he, State.stepHash64Seq_eq, hl, if_neg Bool.false_ne_true]

/-- At the last byte of an iteration 0…6 (spec/42_hash64.md R178). -/
theorem State.engineStep_one_of_lastByte (hl : x.lastByte = true) (hit : x.iter ≠ 7#3) (b : Byte) :
    x.engineStep b =
      { x with
        fb := x.capturedFb b, accv := x.accv.set 0 0#8, lanes := setLane x.lanes x.iter.toNat (x.fold b)
        iter := x.iter + 1#3, idx := 0#32 } := by
  rw [State.engineStep_h64_one ho he, State.stepHash64Seq_eq, if_pos hl, if_neg hit]

/-- At the last byte of iteration 7 (spec/42_hash64.md R179). -/
theorem State.engineStep_one_of_lastStep (hl : x.lastByte = true) (hit : x.iter = 7#3) (b : Byte) :
    x.engineStep b =
      { x with
        fb := x.capturedFb b, accv := x.accv.set 0 (x.fold b)
        hash64 := x.fold b ++ x.lanes.extractLsb' 0 56, op := .none, done := true } := by
  rw [State.engineStep_h64_one ho he, State.stepHash64Seq_eq, if_pos hl, if_pos hit]

end

theorem State.SameEngine.fold {s x : State} (h : s.SameEngine x) (b : Byte) : x.fold b = s.fold b := by
  simp only [State.fold, State.acc, h.cfg, h.accv]

/-- The cycle in which a running operation consumes a byte takes its engine step on that byte, from the registers as the
cycle found them. -/
theorem exists_engineStep_of_consumed {s t : State} {b : Byte} (h : step s = .next t)
    (hc : s.consumed s.nextCycle = some b) : ∃ x, s.SameEngine x ∧ t = x.engineStep b := by
  have hs := State.stepsIn_of_consumed hc
  obtain ⟨hr, hb⟩ := State.stepsIn_running hs
  obtain ⟨x, hx, -, -, ⟨hs', -⟩ | ⟨-, b', hc', rfl⟩⟩ := step_of_busy hb hr h
  · exact nomatch hs.symm.trans hs'
  · exact ⟨x, hx, congrArg _ (Option.some.inj (hc'.symm.trans hc))⟩

/-- Settles O41: the step at the last byte of an iteration writes the fold of its byte into the lane of that
iteration. -/
theorem iterationEndStoresItsLane : Obligations.IterationEndStoresItsLane := by
  intro s t b h hc ho he hl hit
  obtain ⟨x, hx, rfl⟩ := exists_engineStep_of_consumed h hc
  rw [State.engineStep_one_of_lastByte (hx.op.trans ho) (hx.cfg ▸ he) (hx.lastByte.trans hl) (hx.iter ▸ hit), hx.fold,
    hx.lanes, hx.iter]
  refine ⟨fun j hj => ?_, State.iter_succ_toNat hit, rfl, State.acc_setAcc x 0#8, hx.op.trans ho, hx.hash8, hx.hash64⟩
  exact laneOf_setLane s.lanes (s.fold b) (by omega) hj

/-- Byte 0 of the iterations after the first is steered (spec/42_hash64.md R175). -/
theorem State.steered_of_idx_eq_zero {s : State} (ho : s.op = .h64) (he : s.cfg.engines = .one) (hi : s.idx = 0#32)
    (hit : s.iter ≠ 0#3) : s.steered = true := by
  simp [State.steered, ho, he, hi, hit]

/-- Settles O42: the step is steered, so it requests nothing and takes its byte from FB and ITER. -/
theorem firstByteIsSteeredOnTheDatapath : Obligations.FirstByteIsSteeredOnTheDatapath := by
  intro s c ho he hi hit
  have hst := State.steered_of_idx_eq_zero ho he hi hit
  have hb : s.busy = true := s.busy_iff.2 (by simp [ho])
  refine ⟨by simp [State.mReq, State.readNeeded, hst], fun hr hw => ⟨s.steeredByte, ?_, ?_⟩⟩
  · have hs : s.stepsIn c = true := by simp [State.stepsIn, hr, hb, hst, hw]
    rw [State.consumed, if_pos hs, if_pos hst]
  · have hwide : (s.iter.setWidth 8).toNat = s.iter.toNat := BitVec.toNat_setWidth_of_le (by decide)
    rw [State.steeredByte, BitVec.toNat_add, hwide]

/-! ### The run in a prompt environment -/

/-- A cycle without reset in which no HASH8 runs leaves HASH8 as it is, if LEN ≥ 1 (spec/10_state.md R26). -/
theorem hash8_of_op_ne_h8 {s t : State} (hr : s.nextCycle.rst = false) (h : step s = .next t) (hop : s.op ≠ .h8)
    (hn : s.len ≠ 0#32) : t.hash8 = s.hash8 := by
  obtain ⟨hchange, -⟩ := resultsChangeOnlyAtCompletion s t h hr
  refine Decidable.byContradiction fun hne => ?_
  obtain ⟨-, -, h8 | ⟨-, -, hempty⟩⟩ := hchange hne
  · exact hop h8
  · exact hn hempty

theorem OperationRun.hash8_of_hash64 {k : Nat} {s t : State} (hw : s.Wf) (h : OperationRun isHash64 k s t) :
    t.hash8 = s.hash8 := by
  refine h.induction (M := fun _ t => t.hash8 = s.hash8) (fun t h0 hst => ?_) fun k u t hrun hub hr ih hst => ?_
  · obtain ⟨hr, hb, -⟩ := State.acceptsIn_iff.1 h0.accepted
    exact hash8_of_op_ne_h8 hr hst (by simp [s.not_busy_iff.1 hb]) h0.nonempty
  · have ho := OperationRun.operating (op := .h64) hw hrun hub
    exact (hash8_of_op_ne_h8 hr hst (by simp [ho.op]) (ho.len ▸ hrun.nonempty)).trans ih

/-- Settles O51: a prompt environment runs the operation to its end in as many cycles as it has steps, and keeps the host
duty. -/
theorem hash64RunsToItsResult : Obligations.Hash64RunsToItsResult := by
  intro s hw ha hc hn hst hp
  obtain ⟨t, hrun, hd, ht⟩ := exists_operationRun_hash64_of_prompt hw ha hc hn hst hp
  have hstores : ∀ c ∈ s.inputs.take (stepCount .h64 s.cfg.engines s.len.toNat + 1), c.stores = [] := by
    refine State.forall_take_inputs hst fun c h => ?_
    obtain ⟨-, hnone, -⟩ := Cycle.prompt_iff.1 (State.prompt_of_promptFor hp c h)
    exact hnone
  exact ⟨t, hrun.ends_in, ht, OperationRun.done (op := .h64) hrun ht, hrun.hash64_eq hw hd ht, hrun.hash8_of_hash64 hw,
    runs_mem hstores hrun.ends_in⟩

/-! ### The step that ends a HASH64 -/

/-- The cycle in which an operation finishes leaves BUSY = 0 and DONE = 1 (spec/41_byte_hash.md R150). -/
theorem ended_of_finishesIn {s t : State} (hf : s.finishesIn s.nextCycle = true) (h : step s = .next t) :
    t.busy = false ∧ t.done = true := by
  obtain ⟨hs, -⟩ := State.finishesIn_iff.1 hf
  obtain ⟨hr, hb⟩ := State.stepsIn_running hs
  obtain ⟨-, hbusy⟩ := busyFlagLaw s t h
  rw [State.statusWord_bit0, State.statusWord_bit0, hb, hf, hr] at hbusy
  exact ⟨hbusy, done_of_busy_falls hb hr h hbusy⟩

/-- The first half of `Obligations.Hash64ResultAtFinish`: the last step of a HASH64 whose message nobody has written
since its acceptance leaves hash64 of it (spec/42_hash64.md R186). -/
theorem hash64_of_finishesIn {s t : State} (hw : s.Wf) (hp : s.Progress) (ho : s.op = .h64) (hi : s.MessageIntact)
    (hl : s.LeavesMessage s.nextCycle) (hf : s.finishesIn s.nextCycle = true) (h : step s = .next t) :
    t.hash64 = hash64 s.message s.cfg.table ∧ t.op = .none ∧ t.done = true ∧
      t.hash8 = s.hash8 ∧ t.base = s.base ∧ t.len = s.len ∧ t.message = s.message := by
  obtain ⟨hs, -⟩ := State.finishesIn_iff.1 hf
  obtain ⟨hr, hb⟩ := State.stepsIn_running hs
  obtain ⟨ht, hdone⟩ := ended_of_finishesIn hf h
  have hop : s.Operating .h64 s := ⟨ho, hb, rfl, rfl, rfl, hw.idx_in_message hb⟩
  have hm : s.OnMessage s := ⟨rfl, hi, hp⟩
  obtain ⟨-, hash⟩ := hm.step_hash64 hop hw.len_lt hr hl h
  obtain ⟨hbase, hlen, -⟩ := messageIsFixedWhileBusy s t (s.busy_iff.1 hb) hr h
  obtain ⟨hmsg, -⟩ := step_message hb hr hi hl h
  have hn : s.len ≠ 0#32 := fun h0 => absurd (hw.idx_in_message hb) (by simp [h0])
  have h8 := hash8_of_op_ne_h8 hr h (by simp [ho]) hn
  exact ⟨hash ht, t.not_busy_iff.1 ht, hdone, h8, hbase, hlen, hmsg⟩

end Sys2Proof.Machine
end

section
/-! SUPPORT. What a HASH64 makes of the bytes it consumes, in any environment (spec/42_hash64.md R175–R181, R186). -/

namespace Sys2Proof.Machine

/-! ### Induction over the bytes consumed -/

/-- A steered step consumes FB advanced by ITER (spec/42_hash64.md R176). -/
theorem State.eq_steeredByte_of_consumed {s : State} {c : Cycle} {b : Byte} (hc : s.consumed c = some b)
    (hst : s.steered = true) : b = s.steeredByte := by
  rw [State.consumed, if_pos (State.stepsIn_of_consumed hc), if_pos hst] at hc
  exact (Option.some.inj hc).symm

/-- Induction over the bytes that a HASH64 consumes: `R` relates the registers to the bytes consumed while the operation
runs, whatever the environment does, and `E` when it has ended. -/
theorem OperationRun.consumed_induction {R E : State → List Byte → Prop} {s : State} (hw : s.Wf)
    (start : R s.popInput.startHash64 [])
    (same : ∀ u x bytes, u.SameEngine x → R u bytes → R x bytes)
    (next : ∀ x b bytes, s.Operating .h64 x → (x.steered = true → b = x.steeredByte) → x.lastStep = false →
      R x bytes → R (x.engineStep b) (bytes ++ [b]))
    (last : ∀ x b bytes, s.Operating .h64 x → (x.steered = true → b = x.steeredByte) → x.lastStep = true →
      R x bytes → E (x.engineStep b) (bytes ++ [b]))
    {k : Nat} {t : State} (h : OperationRun isHash64 k s t) (ht : t.busy = false) : E t (consumedIn (k + 1) s) := by
  have hinv : (t.busy = true → R t (consumedIn (k + 1) s)) ∧ (t.busy = false → E t (consumedIn (k + 1) s)) := by
    refine h.induction (M := fun k t => (t.busy = true → R t (consumedIn (k + 1) s)) ∧
      (t.busy = false → E t (consumedIn (k + 1) s))) (fun t h0 hst => ?_) fun k u t hrun hub hr ih hst => ?_
    · obtain ⟨ho, -⟩ := operating_of_accepted_hash64 h0.accepted h0.command h0.nonempty hst
      obtain ⟨-, rfl⟩ := step_of_accepted_hash64 h0.accepted h0.command hst
      rw [consumedIn_one_of_accepted h0.accepted]
      exact ⟨fun _ => same _ _ _ (State.sameEngine_platformStores _ _) start, fun ht => nomatch ho.busy.symm.trans ht⟩
    · have ho := OperationRun.operating (op := .h64) hw hrun hub
      rw [consumedIn_succ hrun.ends_in]
      obtain ⟨x, hx, -, -, hcase⟩ := step_of_busy hub hr hst
      have hox := ho.sameEngine hx
      have hR := same u x _ hx (ih.1 hub)
      obtain ⟨hs, rfl⟩ | ⟨-, b, hc, rfl⟩ := hcase
      · rw [State.consumed_eq_none hs, Option.toList_none, List.append_nil]
        exact ⟨fun _ => hR, fun ht => nomatch hox.busy.symm.trans ht⟩
      · have hsteer : x.steered = true → b = x.steeredByte := by
          rw [hx.steered, State.steeredByte, hx.fb, hx.iter]
          exact State.eq_steeredByte_of_consumed hc
        rw [hc, Option.toList_some]
        cases hl : x.lastStep with
        | false =>
          have hoy := hox.engineStep hw.len_lt hl b
          exact ⟨fun _ => next x b _ hox hsteer hl hR, fun ht => nomatch hoy.busy.symm.trans ht⟩
        | true =>
          exact ⟨fun ht => absurd (State.engineStep_op_of_lastStep hl b) ((State.busy_iff _).1 ht),
            fun _ => last x b _ hox hsteer hl hR⟩
  exact hinv.2 ht

/-! ### The bytes of one iteration -/

/-- The bytes consumed in iteration `j` of runs of `n` bytes each. -/
def iterationBytes (n : Nat) (bytes : List Byte) (j : Nat) : List Byte := (bytes.drop (j * n)).take n

section
variable {n j i : Nat} {bytes : List Byte}

theorem iterationBytes_concat_of_le (h : (j + 1) * n ≤ bytes.length) (b : Byte) :
    iterationBytes n (bytes ++ [b]) j = iterationBytes n bytes j := by
  rw [Nat.succ_mul] at h
  rw [iterationBytes, List.drop_append_of_le_length (by omega), List.take_append_of_le_length (by simp; omega),
    iterationBytes]

theorem iterationBytes_concat (h : bytes.length = j * n + i) (hi : i < n) (b : Byte) :
    iterationBytes n (bytes ++ [b]) j = iterationBytes n bytes j ++ [b] := by
  rw [iterationBytes, List.drop_append_of_le_length (by omega), List.take_of_length_le (by simp; omega),
    iterationBytes, List.take_of_length_le (by simp; omega)]

theorem iterationBytes_eq_nil (h : bytes.length ≤ j * n) : iterationBytes n bytes j = [] := by
  rw [iterationBytes, List.drop_eq_nil_of_le h, List.take_nil]

/-- A position is that of a first byte of an iteration in one way only. -/
theorem eq_of_mul_eq_mul_add {k : Nat} (hi : i < n) (h : k * n = j * n + i) : k = j ∧ i = 0 := by
  have hmod := congrArg (· % n) h
  simp only [Nat.mul_mod_left, Nat.mul_add_mod_self_right, Nat.mod_eq_of_lt hi] at hmod
  exact ⟨Nat.eq_of_mul_eq_mul_right (Nat.zero_lt_of_lt hi) (by omega), hmod.symm⟩

end

/-- Each iteration begun consumed `f` advanced by its number as its first byte (spec/42_hash64.md R170, R176). -/
def StartFrom (f : Byte) (n : Nat) (bytes : List Byte) : Prop :=
  ∀ j, j * n < bytes.length → bytes[j * n]? = some (f + BitVec.ofNat 8 j)

theorem startFrom_nil (f : Byte) (n : Nat) : StartFrom f n [] := fun _ h => absurd h (Nat.not_lt_zero _)

theorem StartFrom.concat {f b : Byte} {n : Nat} {bytes : List Byte} (h : StartFrom f n bytes)
    (hb : ∀ j, j * n = bytes.length → b = f + BitVec.ofNat 8 j) : StartFrom f n (bytes ++ [b]) := by
  intro j hj
  rw [List.length_append, List.length_singleton] at hj
  rcases Nat.lt_or_eq_of_le (Nat.le_of_lt_succ hj) with hold | hnew
  · rw [List.getElem?_append_left hold, h j hold]
  · rw [hnew, List.getElem?_concat_length, hb j hnew]

/-! ### The sequential organisation -/

/-- What the registers of a running sequential HASH64, accepted in `s`, hold of the bytes it has consumed
(spec/42_hash64.md R175–R178). -/
structure State.HoldsIterationsOf (s x : State) (bytes : List Byte) : Prop where
  length : bytes.length = x.iter.toNat * s.len.toNat + x.idx.toNat
  acc : x.acc = byteHash (iterationBytes s.len.toNat bytes x.iter.toNat) s.cfg.table
  lanes : ∀ j, j < x.iter.toNat → laneOf x.lanes j = byteHash (iterationBytes s.len.toNat bytes j) s.cfg.table
  firstBytes : StartFrom x.fb s.len.toNat bytes

/-- What a sequential HASH64, accepted in `s`, leaves of the bytes it has consumed (spec/42_hash64.md R179). -/
structure State.EndsWithIterationsOf (s t : State) (bytes : List Byte) : Prop where
  length : bytes.length = 8 * s.len.toNat
  lanes : ∀ j, j < 8 → laneOf t.hash64 j = byteHash (iterationBytes s.len.toNat bytes j) s.cfg.table
  firstBytes : StartFrom t.fb s.len.toNat bytes

theorem State.HoldsIterationsOf.sameEngine {s u x : State} {bytes : List Byte} (h : s.HoldsIterationsOf u bytes)
    (hx : u.SameEngine x) : s.HoldsIterationsOf x bytes where
  length := by rw [hx.iter, hx.idx]; exact h.length
  acc := by rw [State.acc, hx.accv, hx.iter]; exact h.acc
  lanes := by rw [hx.iter, hx.lanes]; exact h.lanes
  firstBytes := hx.fb ▸ h.firstBytes

/-- An accepted HASH64 holds nothing yet (spec/42_hash64.md R173). -/
theorem State.startHash64_holdsIterationsOf {s : State} (hb : s.busy = false) (hn : s.len ≠ 0#32) :
    s.HoldsIterationsOf s.popInput.startHash64 [] := by
  have hacc := (State.startHash64_started (s := s.popInput) hb hn).acc
  rw [State.startHash64_idle (s := s.popInput) hb, if_neg (c := s.popInput.len = 0#32) hn] at hacc ⊢
  refine ⟨?_, ?_, fun j hj => absurd hj (Nat.not_lt_zero j), startFrom_nil _ _⟩
  · simp
  · rw [hacc, iterationBytes_eq_nil (Nat.zero_le _)]
    rfl

section
variable {s x : State} {bytes : List Byte} {b : Byte}

/-- The step folds its byte into that of the bytes of its iteration. -/
theorem State.HoldsIterationsOf.fold (h : s.HoldsIterationsOf x bytes) (ho : s.Operating .h64 x) :
    x.fold b = byteHash (iterationBytes s.len.toNat (bytes ++ [b]) x.iter.toNat) s.cfg.table := by
  rw [State.fold, h.acc, ho.cfg, iterationBytes_concat h.length (ho.len ▸ ho.idx_lt), byteHash_concat]

/-- The lanes of the iterations before stay those of the bytes of these. -/
theorem State.HoldsIterationsOf.lanes_concat (h : s.HoldsIterationsOf x bytes) (b : Byte) {j : Nat}
    (hj : j < x.iter.toNat) :
    laneOf x.lanes j = byteHash (iterationBytes s.len.toNat (bytes ++ [b]) j) s.cfg.table := by
  have hle : (j + 1) * s.len.toNat ≤ x.iter.toNat * s.len.toNat := Nat.mul_le_mul_right _ hj
  rw [iterationBytes_concat_of_le (by rw [h.length]; omega), h.lanes j hj]

/-- FB holds the first byte of all, and the first byte of each further iteration is steered (spec/42_hash64.md R176,
R177). -/
theorem State.HoldsIterationsOf.firstBytes_concat (h : s.HoldsIterationsOf x bytes) (ho : s.Operating .h64 x)
    (he : x.cfg.engines = .one) (hst : x.steered = true → b = x.steeredByte) :
    StartFrom (x.capturedFb b) s.len.toNat (bytes ++ [b]) := by
  have hat : ∀ j, j * s.len.toNat = bytes.length → j = x.iter.toNat ∧ x.idx.toNat = 0 := fun j hj =>
    eq_of_mul_eq_mul_add (ho.len ▸ ho.idx_lt) (hj.trans h.length)
  unfold State.capturedFb
  split
  · next h0 =>
    obtain ⟨hi, hit⟩ := h0
    have hnil : bytes = [] := List.eq_nil_of_length_eq_zero (by simp [h.length, hi, hit])
    rw [hnil] at hat ⊢
    refine (startFrom_nil b _).concat fun j hj => ?_
    rw [(hat j hj).1, hit]
    exact (BitVec.add_zero b).symm
  · next h0 =>
    refine h.firstBytes.concat fun j hj => ?_
    obtain ⟨rfl, hi0⟩ := hat j hj
    have hi : x.idx = 0#32 := BitVec.eq_of_toNat_eq hi0
    rw [hst (State.steered_of_idx_eq_zero ho.op he hi fun hit => h0 ⟨hi, hit⟩), State.steeredByte, ← BitVec.ofNat_toNat]

/-- A step that is not the last goes on with its iteration, or stores its lane and goes to the next. -/
theorem State.HoldsIterationsOf.engineStep (h : s.HoldsIterationsOf x bytes) (ho : s.Operating .h64 x)
    (he : x.cfg.engines = .one) (hlen : s.len.toNat < 2 ^ s.cfg.lw) (hst : x.steered = true → b = x.steeredByte)
    (hl : x.lastStep = false) : s.HoldsIterationsOf (x.engineStep b) (bytes ++ [b]) := by
  have hcount : (bytes ++ [b]).length = x.iter.toNat * s.len.toNat + (x.idx.toNat + 1) := by
    rw [List.length_append, h.length]
    rfl
  have hfirst := h.firstBytes_concat ho he hst
  have hfold := h.fold (b := b) ho
  cases hbyte : x.lastByte with
  | false =>
    rw [State.engineStep_one_of_not_lastByte ho.op he hbyte]
    refine ⟨?_, (State.acc_setAcc x (x.fold b)).trans hfold, fun j hj => h.lanes_concat b hj, hfirst⟩
    rw [hcount, ← (ho.nextIdx_toNat hlen hbyte).1]
  | true =>
    have hit : x.iter ≠ 7#3 := by simpa [State.lastStep_h64_one ho.op he, hbyte] using hl
    have hnext : (x.iter + 1#3).toNat = x.iter.toNat + 1 := State.iter_succ_toNat hit
    rw [State.lastByte_iff, ho.len] at hbyte
    have hwhole : (bytes ++ [b]).length = (x.iter.toNat + 1) * s.len.toNat := by
      rw [hcount, hbyte, Nat.succ_mul]
    rw [State.engineStep_one_of_lastByte ho.op he (State.lastByte_iff.2 (ho.len ▸ hbyte)) hit]
    refine ⟨?_, (State.acc_setAcc x 0#8).trans ?_, fun j hj => ?_, hfirst⟩
    · simp only [hwhole, hnext]
      rfl
    · simp only [hnext]
      rw [iterationBytes_eq_nil (Nat.le_of_eq hwhole)]
      rfl
    · simp only [hnext] at hj ⊢
      rw [laneOf_setLane _ _ (by omega) (by omega)]
      split
      · next heq => rw [hfold, heq]
      · next hne => exact h.lanes_concat b (by omega)

/-- The last step puts lane 7 above the lanes stored before. -/
theorem State.HoldsIterationsOf.engineStep_last (h : s.HoldsIterationsOf x bytes) (ho : s.Operating .h64 x)
    (he : x.cfg.engines = .one) (hst : x.steered = true → b = x.steeredByte) (hl : x.lastStep = true) :
    s.EndsWithIterationsOf (x.engineStep b) (bytes ++ [b]) := by
  rw [State.lastStep_h64_one ho.op he, Bool.and_eq_true, beq_iff_eq] at hl
  obtain ⟨hbyte, hit⟩ := hl
  have hit7 : x.iter.toNat = 7 := congrArg BitVec.toNat hit
  have hidx := State.lastByte_iff.1 hbyte
  have hlen := h.length
  have hfold := h.fold (b := b) ho
  rw [hit7] at hlen hfold
  rw [State.engineStep_one_of_lastStep ho.op he hbyte hit]
  refine ⟨?_, fun j hj => ?_, h.firstBytes_concat ho he hst⟩
  · rw [List.length_append, List.length_singleton]
    rw [ho.len] at hidx
    omega
  · rw [laneOf_append_low _ _ hj]
    split
    · next heq => rw [hfold, heq]
    · next hne => exact h.lanes_concat b (by omega)

end

/-! ### The parallel organisation -/

/-- Perturbation leaves a byte appended as it is, unless it is the first. -/
theorem perturb_concat (m : List Byte) (b : Byte) (k : Nat) :
    perturb (m ++ [b]) k = perturb m k ++ [if m.length = 0 then b + BitVec.ofNat 8 k else b] := by
  cases m <;> rfl

/-- What the registers of a running parallel HASH64, accepted in `s`, hold of the bytes it has consumed
(spec/42_hash64.md R180). -/
structure State.HoldsLanesOf (s x : State) (bytes : List Byte) : Prop where
  length : bytes.length = x.idx.toNat
  accv : ∀ k (h : k < 8), x.accv[k] = byteHash (perturb bytes k) s.cfg.table

/-- What a parallel HASH64, accepted in `s`, leaves of the bytes it has consumed (spec/42_hash64.md R181). -/
structure State.EndsWithLanesOf (s t : State) (bytes : List Byte) : Prop where
  length : bytes.length = s.len.toNat
  lanes : ∀ k, k < 8 → laneOf t.hash64 k = byteHash (perturb bytes k) s.cfg.table

theorem State.HoldsLanesOf.sameEngine {s u x : State} {bytes : List Byte} (h : s.HoldsLanesOf u bytes)
    (hx : u.SameEngine x) : s.HoldsLanesOf x bytes where
  length := by rw [hx.idx]; exact h.length
  accv := by rw [hx.accv]; exact h.accv

/-- An accepted HASH64 holds nothing yet (spec/42_hash64.md R173). -/
theorem State.startHash64_holdsLanesOf {s : State} (hb : s.busy = false) (hn : s.len ≠ 0#32)
    (he : s.cfg.engines = .eight) : s.HoldsLanesOf s.popInput.startHash64 [] := by
  rw [State.startHash64_idle (s := s.popInput) hb, if_neg (c := s.popInput.len = 0#32) hn]
  refine ⟨rfl, fun k hk => ?_⟩
  simp [he, perturb, byteHash]

section
variable {s x : State} {bytes : List Byte} {b : Byte}

/-- Each lane folds its own byte. -/
theorem State.HoldsLanesOf.foldLanes (h : s.HoldsLanesOf x bytes) (ho : s.Operating .h64 x) {k : Nat} (hk : k < 8) :
    (x.foldLanes b)[k] = byteHash (perturb (bytes ++ [b]) k) s.cfg.table := by
  have hidx : x.idx = 0#32 ↔ bytes.length = 0 := by rw [h.length]; exact BitVec.toNat_inj.symm
  rw [perturb_concat, byteHash_concat, ← h.accv k hk, ← ho.cfg]
  simp [State.foldLanes, State.laneByte, hidx]

theorem State.HoldsLanesOf.engineStep (h : s.HoldsLanesOf x bytes) (ho : s.Operating .h64 x)
    (he : x.cfg.engines = .eight) (hlen : s.len.toNat < 2 ^ s.cfg.lw) (hl : x.lastStep = false) :
    s.HoldsLanesOf (x.engineStep b) (bytes ++ [b]) := by
  have hbyte : x.lastByte = false := State.lastStep_h64_eight he ▸ hl
  rw [State.engineStep_h64_eight ho.op he, State.stepHash64Par_eq, hbyte, if_neg Bool.false_ne_true]
  refine ⟨?_, fun k hk => h.foldLanes ho hk⟩
  rw [List.length_append, h.length]
  exact (ho.nextIdx_toNat hlen hbyte).1.symm

theorem State.HoldsLanesOf.engineStep_last (h : s.HoldsLanesOf x bytes) (ho : s.Operating .h64 x)
    (he : x.cfg.engines = .eight) (hl : x.lastStep = true) :
    s.EndsWithLanesOf (x.engineStep b) (bytes ++ [b]) := by
  have hbyte : x.lastByte = true := State.lastStep_h64_eight he ▸ hl
  rw [State.engineStep_h64_eight ho.op he, State.stepHash64Par_eq, if_pos hbyte]
  refine ⟨?_, fun k hk => (laneOf_packLanes _ k hk).trans (h.foldLanes ho hk)⟩
  rw [List.length_append, h.length, ← ho.len]
  exact State.lastByte_iff.1 hbyte

end

/-! ### The run -/

theorem OperationRun.endsWithIterationsOf {k : Nat} {s t : State} (hw : s.Wf) (h : OperationRun isHash64 k s t)
    (he : s.cfg.engines = .one) (ht : t.busy = false) : s.EndsWithIterationsOf t (consumedIn (k + 1) s) :=
  h.consumed_induction (R := s.HoldsIterationsOf) (E := s.EndsWithIterationsOf) hw
    (State.startHash64_holdsIterationsOf (State.acceptsIn_iff.1 h.accepted).2.1 h.nonempty)
    (fun _ _ _ hx hR => hR.sameEngine hx)
    (fun _ _ _ ho hst hl hR => hR.engineStep ho (ho.cfg ▸ he) hw.len_lt hst hl)
    (fun _ _ _ ho hst hl hR => hR.engineStep_last ho (ho.cfg ▸ he) hst hl) ht

theorem OperationRun.endsWithLanesOf {k : Nat} {s t : State} (hw : s.Wf) (h : OperationRun isHash64 k s t)
    (he : s.cfg.engines = .eight) (ht : t.busy = false) : s.EndsWithLanesOf t (consumedIn (k + 1) s) :=
  h.consumed_induction (R := s.HoldsLanesOf) (E := s.EndsWithLanesOf) hw
    (State.startHash64_holdsLanesOf (State.acceptsIn_iff.1 h.accepted).2.1 h.nonempty he)
    (fun _ _ _ hx hR => hR.sameEngine hx)
    (fun _ _ _ ho _ hl hR => hR.engineStep ho (ho.cfg ▸ he) hw.len_lt hl)
    (fun _ _ _ ho _ hl hR => hR.engineStep_last ho (ho.cfg ▸ he) hl) ht

/-- The first byte of each of the eight iterations is the first of all advanced by its number. -/
theorem State.EndsWithIterationsOf.head?_drop {s t : State} {bytes : List Byte} (h : s.EndsWithIterationsOf t bytes)
    (hn : s.len ≠ 0#32) {j : Nat} (hj : j < 8) :
    (bytes.drop (j * s.len.toNat)).head? = bytes.head?.map (· + BitVec.ofNat 8 j) := by
  have hpos : 0 < s.len.toNat := Nat.pos_of_ne_zero fun h => hn (BitVec.eq_of_toNat_eq h)
  have hlt : ∀ i, i < 8 → i * s.len.toNat < bytes.length := fun i hi =>
    h.length ▸ Nat.mul_lt_mul_of_pos_right hi hpos
  have h0 := h.firstBytes 0 (hlt 0 (by decide))
  rw [Nat.zero_mul, BitVec.add_zero] at h0
  rw [List.head?_drop, h.firstBytes j (hlt j hj), List.head?_eq_getElem?, h0]
  rfl

/-- Settles O49: with the message untouched the last step leaves hash64 of it; in any environment each lane is the byte
hash of the bytes its lane consumed. -/
theorem hash64ResultAtFinish : Obligations.Hash64ResultAtFinish := by
  refine ⟨fun s t hw hp ho hi hl hf h => hash64_of_finishesIn hw hp ho hi hl hf h, fun k s t hw h ht => ?_⟩
  cases he : s.cfg.engines with
  | one =>
    have hend := h.endsWithIterationsOf hw he ht
    exact ⟨hend.length, fun j hj => ⟨hend.lanes j hj, hend.head?_drop h.nonempty hj⟩⟩
  | eight =>
    have hend := h.endsWithLanesOf hw he ht
    exact ⟨hend.length, hend.lanes⟩

end Sys2Proof.Machine
end

section
/-! SUPPORT. The host reads: the words they return, and that the rest of the cycle leaves the word returned
(spec/43_control.md R209–R218). -/

namespace Sys2Proof.Machine

/-! ### The words read -/

/-- The flags stand in their bits of STATUS, and every other bit is 0 (spec/10_state.md R31, R38). -/
theorem State.statusWord_getLsbD (s : State) (n : Nat) :
    s.statusWord.getLsbD n =
      match n with
      | 0 => s.busy
      | 1 => s.done
      | 2 => s.errEmpty
      | 3 => s.errCmd
      | 4 => s.errBusy
      | 8 => s.par
      | _ => false := by
  rw [State.statusWord]
  iterate 7 rw [BitVec.getLsbD_append]
  match n with
  | 0 | 1 | 2 | 3 | 4 | 5 | 6 | 7 | 8 | n + 9 => simp

theorem State.busy_eq_decide (s : State) : s.busy = decide (s.op ≠ .none) := by
  rw [Bool.eq_iff_iff, decide_eq_true_iff]
  exact s.busy_iff

/-- Settles O8: the word read is STATUS, bit by bit. -/
theorem readStatusReturnsTheFlags : Obligations.ReadStatusReturnsTheFlags := by
  intro low s
  have hbit := s.statusWord_getLsbD
  refine ⟨s.statusWord, exec_decodeRead 1#3 low s, (hbit 0).trans s.busy_eq_decide, hbit 1, hbit 2, hbit 3, hbit 4,
    hbit 8, fun n hn hpar => ?_⟩
  obtain rfl | rfl | rfl | h9 : n = 5 ∨ n = 6 ∨ n = 7 ∨ 9 ≤ n := by omega
  · exact hbit 5
  · exact hbit 6
  · exact hbit 7
  · obtain ⟨m, rfl⟩ := Nat.exists_eq_add_of_le' h9
    exact hbit (m + 9)

/-- Settles O9: CTRL and the reserved offset read as the word 0. -/
theorem readCtrlAndReservedReturnZero : Obligations.ReadCtrlAndReservedReturnZero :=
  fun low s => ⟨exec_decodeRead 0#3 low s, exec_decodeRead 7#3 low s⟩

/-- A word that fits in `k` bits has 0 in bit `k` and above. -/
theorem getLsbD_eq_false_of_toNat_lt {w : Word} {k n : Nat} (h : w.toNat < 2 ^ k) (hn : k ≤ n) :
    w.getLsbD n = false := by
  rw [← BitVec.testBit_toNat]
  exact Nat.testBit_lt_two_pow (Nat.lt_of_lt_of_le h (Nat.pow_le_pow_right (by decide) hn))

/-- Settles O10: BASE and LEN are held zero-extended, which well-formed states keep (R24, R25). -/
theorem readBaseAndLenReturnTheOperands : Obligations.ReadBaseAndLenReturnTheOperands := by
  intro low s
  refine ⟨⟨s.base, exec_decodeRead 2#3 low s, rfl, fun hw n hn => ?_⟩,
    ⟨s.len, exec_decodeRead 3#3 low s, rfl, fun hw n hn => ?_⟩⟩
  · exact getLsbD_eq_false_of_toNat_lt hw.base_lt hn
  · exact getLsbD_eq_false_of_toNat_lt hw.len_lt hn

/-- Settles O11: 8 bits lose nothing in 32. -/
theorem readHash8ReturnsTheResult : Obligations.ReadHash8ReturnsTheResult :=
  fun low s => ⟨s.hash8.setWidth 32, exec_decodeRead 4#3 low s, BitVec.toNat_setWidth_of_le (by decide)⟩

/-- Lane j of a 32-bit word taken at lane k is lane k + j of the whole (spec/43_control.md R216, R217). -/
theorem extractLsb'_word_eq_laneOf (r : Dword) (k : Nat) {j : Nat} (hj : j < 4) :
    (r.extractLsb' (8 * k) 32).extractLsb' (8 * j) 8 = laneOf r (k + j) := by
  refine BitVec.eq_of_getLsbD_eq fun i hi => ?_
  have hpos : 8 * k + (8 * j + i) = 8 * (k + j) + i := by omega
  rw [laneOf_getLsbD]
  simp [hi, hpos, show 8 * j + i < 32 by omega]

/-- Settles O12: the two words are the halves of HASH64, at lanes 0 and 4. -/
theorem readHash64WordsReturnTheLanes : Obligations.ReadHash64WordsReturnTheLanes := by
  intro low s
  refine ⟨s.hash64.extractLsb' 0 32, s.hash64.extractLsb' 32 32, exec_decodeRead 5#3 low s,
    exec_decodeRead 6#3 low s, ?_, fun j hj => ⟨?_, ?_⟩⟩
  · rw [BitVec.extractLsb'_append_extractLsb'_eq_extractLsb' (by decide)]
    exact BitVec.extractLsb'_eq_self
  · have hlo := extractLsb'_word_eq_laneOf s.hash64 0 hj
    rwa [Nat.zero_add] at hlo
  · have hhi := extractLsb'_word_eq_laneOf s.hash64 4 hj
    rwa [Nat.add_comm] at hhi

/-! ### The word returned, in the rest of the cycle -/

@[simp] theorem State.platformStores_hrdata (s : State) (l : List (Word × Byte)) :
    (s.platformStores l).hrdata = s.hrdata := by
  obtain ⟨m, d, h⟩ := s.platformStores_eq l
  rw [h]

@[simp] theorem State.engineStep_hrdata (s : State) (b : Byte) : (s.engineStep b).hrdata = s.hrdata := by
  obtain ⟨_, _, _, _, _, _, _, _, _, h⟩ := s.engineStep_frame b
  rw [h]

@[simp] theorem State.engineCycle_hrdata (s : State) (c : Cycle) : (s.engineCycle c).hrdata = s.hrdata := by
  obtain ⟨-, -, h⟩ | ⟨-, -, h⟩ | ⟨-, -, h⟩ | ⟨-, -, h⟩ := s.engineCycle_cases c <;> rw [h]
  · exact s.takeAnswer.engineStep_hrdata _
  · exact s.engineStep_hrdata _

/-- The host access alone decides the word returned: neither the platform's writes nor the engine change it
(spec/43_control.md R209, spec/70_reset_and_hazards.md R273). -/
@[simp] theorem State.afterHost_hrdata (s : State) (wasBusy : Bool) (c : Cycle) :
    (s.afterHost wasBusy c).hrdata = s.hrdata := by
  unfold State.afterHost
  split <;> simp

/-- Settles O13: the word is one of what the port shows at the start of the cycle, and the rest of the cycle leaves
it. -/
theorem hostReadsSeeTheStartOfTheCycle : Obligations.HostReadsSeeTheStartOfTheCycle := by
  intro s code data hwe
  have hread (u : State) :
      exec (decode (.access code data)) u = .next (u.returnWord (u.view.wordAt (offOf code))) := by
    rw [decode_access_of_read hwe, exec_decodeRead]
  refine ⟨s.view.wordAt (offOf code), hread s, fun hr hh => ?_⟩
  exact ⟨_, runCycle_of_host hr hh (hread s.popInput), State.afterHost_hrdata _ _ _⟩

end Sys2Proof.Machine
end

section
/-! SUPPORT. The host writes and the commands (spec/43_control.md R200–R208). -/

namespace Sys2Proof.Machine

/-! ### Writes -/

/-- While an operation runs a write to an operand register is discarded and raises ERR_BUSY (R207). -/
theorem State.unlessBusy_of_busy {s : State} (h : s.busy = true) (written : State) :
    s.unlessBusy written = s.raise .busy := by
  rw [State.unlessBusy, if_pos h]

/-- While no operation runs the write takes effect (R206). -/
theorem State.unlessBusy_of_idle {s : State} (h : s.busy = false) (written : State) :
    s.unlessBusy written = written := by
  rw [State.unlessBusy, h, if_neg Bool.false_ne_true]

theorem exec_wrBase (low : BitVec 2) (data : Word) (s : State) :
    exec (.wrBase low data) s = .next (s.unlessBusy { s with base := keepLow s.cfg.aw data }) := rfl

theorem exec_wrLen (low : BitVec 2) (data : Word) (s : State) :
    exec (.wrLen low data) s = .next (s.unlessBusy { s with len := keepLow s.cfg.lw data }) := rfl

/-- Settles O14: the write takes effect with the field that the register keeps of the word. -/
theorem writeBaseAndLenWhileIdle : Obligations.WriteBaseAndLenWhileIdle := by
  intro low data s hop
  have hidle := s.not_busy_iff.2 hop
  rw [exec_wrBase, exec_wrLen, State.unlessBusy_of_idle hidle, State.unlessBusy_of_idle hidle]
  exact ⟨⟨_, rfl, keepLow_toNat _ data⟩, ⟨_, rfl, keepLow_toNat _ data⟩⟩

/-- Settles O15: the write is discarded with ERR_BUSY. -/
theorem writeBaseAndLenWhileBusy : Obligations.WriteBaseAndLenWhileBusy := by
  intro low data s hop
  have hbusy := s.busy_iff.2 hop
  rw [exec_wrBase, exec_wrLen, State.unlessBusy_of_busy hbusy, State.unlessBusy_of_busy hbusy]
  exact ⟨rfl, rfl⟩

/-- Settles O16: each of the five arms is the write that is discarded. -/
theorem readOnlyWritesAreDiscarded : Obligations.ReadOnlyWritesAreDiscarded :=
  fun _ _ _ => ⟨rfl, rfl, rfl, rfl, rfl⟩

/-! ### Commands -/

/-- A write to CTRL is the command of its OPC, whatever the ignored bits (spec/30_encoding.md R93, R94). -/
theorem exec_wrCtrl_eq_commandInstr (low : BitVec 2) (data : Word) (ign : BitVec 29) (s : State) :
    exec (.wrCtrl low data) s = exec (commandInstr (opcOf data) ign) s := by
  have hword : commandInstr (opcOf data) ign = decodeCommand (ign ++ opcOf data) :=
    (decode_commandWord (opcOf data) ign).symm
  rw [hword, exec_decodeCommand, exec_wrCtrl, State.issueCommand_congr (opcOf_append ign (opcOf data)).symm]

/-- OPC[2] = 1 in the word written makes the command a reserved one (spec/30_encoding.md R95). -/
theorem exec_wrCtrl_of_bit2 {data : Word} (h : data.getLsbD 2 = true) (low : BitVec 2) (ign : BitVec 29) (s : State) :
    exec (.wrCtrl low data) s = exec (.cmdReserved (opcOf data) ign) s := by
  have hopc : (opcOf data).getLsbD 2 = true := by simpa [opcOf] using h
  rw [exec_wrCtrl_eq_commandInstr low data ign, commandInstr_of_bit2 hopc]

/-- Settles O17: a write to CTRL is the command of its OPC. -/
theorem ctrlWriteRunsItsCommand : Obligations.CtrlWriteRunsItsCommand := by
  intro low data ign s
  have hcmd {opc : BitVec 3} (h : opcOf data = opc) :
      exec (.wrCtrl low data) s = exec (commandInstr opc ign) s :=
    h ▸ exec_wrCtrl_eq_commandInstr low data ign s
  exact ⟨hcmd, hcmd, hcmd, hcmd, fun h => exec_wrCtrl_of_bit2 h low ign s, _, exec_wrCtrl low data s⟩

/-- Settles O18: the NOP is its own state, and both words have OPC 0. -/
theorem nopChangesNothing : Obligations.NopChangesNothing := by
  refine ⟨fun _ _ => rfl, fun low s => ⟨?_, ?_⟩⟩
  · exact exec_wrCtrl_eq_commandInstr low 0x00000000#32 0#29 s
  · exact exec_wrCtrl_eq_commandInstr low 0xFFFFFFF8#32 0#29 s

/-- What the law of a sticky flag says of a cycle in which the flag falls (spec/10_state.md R35, R36). -/
theorem rst_or_clear_of_flag_falls {before after rst clear raised : Bool}
    (hlaw : after = (!rst && !clear && (before || raised))) (hbefore : before = true) (hafter : after = false) :
    rst = true ∨ clear = true := by
  subst hbefore hafter
  cases rst with
  | true => exact .inl rfl
  | false => exact .inr (by simpa using hlaw)

/-- Settles O19: the laws of ERR_CMD and ERR_BUSY let each flag fall only with CLEAR or reset. -/
theorem clearClearsTheFlags : Obligations.ClearClearsTheFlags := by
  refine ⟨fun _ _ => rfl, fun s t h hcleared => ?_⟩
  obtain ⟨-, hcmd⟩ := errCmdFlagLaw
  obtain ⟨-, hbusy⟩ := errBusyFlagLaw
  obtain ⟨hs, ht⟩ | ⟨hs, ht⟩ := hcleared
  · exact rst_or_clear_of_flag_falls (hcmd s t h) hs ht
  · exact rst_or_clear_of_flag_falls (hbusy s t h) hs ht

/-- Settles O20: a reserved code in either format raises ERR_CMD. -/
theorem reservedCommandRaisesErrCmdOnly : Obligations.ReservedCommandRaisesErrCmdOnly :=
  ⟨fun _ _ _ => rfl, fun low _ s h => exec_wrCtrl_of_bit2 h low 0#29 s⟩

/-- Settles O21: both starts are refused with ERR_BUSY before LEN is looked at. -/
theorem startWhileBusyIsRefused : Obligations.StartWhileBusyIsRefused := by
  intro ign s hop
  have hbusy := s.busy_iff.2 hop
  exact ⟨congrArg Host.Outcome.next (State.startHash8_busy hbusy),
    congrArg Host.Outcome.next (State.startHash64_busy hbusy)⟩

end Sys2Proof.Machine
end

section
/-! SUPPORT. The errors: what `raise` sets, which flag an access raises, that nothing stops the machine, and the access
that meets `finish` (spec/60_exceptions.md R230–R237). -/

namespace Sys2Proof.Machine

/-! ### `raise` -/

/-- `raise` sets the bit at the code of its error in STATUS, and leaves every other bit (spec/60_exceptions.md R231,
R232). -/
theorem State.raise_statusWord_getLsbD (s : State) (e : ErrorFlag) (n : Nat) :
    (s.raise e).statusWord.getLsbD n = (s.statusWord.getLsbD n || decide (e.code = n)) := by
  rw [State.statusWord_getLsbD, State.statusWord_getLsbD]
  have hpar : (s.raise e).par = s.par := by rw [State.par, State.par, State.raise_cfg]
  match n with
  | 0 | 1 | 2 | 3 | 4 | 5 | 6 | 7 | 8 => cases e <;> simp [hpar, ErrorFlag.code, beq_eq_decide_eq]
  | n + 9 => cases e <;> simp [ErrorFlag.code]

/-- The cause codes are bits of the 32-bit STATUS word (spec/60_exceptions.md R232). -/
theorem ErrorFlag.code_lt (e : ErrorFlag) : e.code < 32 := by
  cases e <;> decide

/-- Settles O24: the word with one bit set is the bit at the code. -/
theorem raiseSetsItsStatusBit : Obligations.RaiseSetsItsStatusBit := by
  intro s e
  refine ⟨BitVec.eq_of_getLsbD_eq fun n _ => ?_, by cases e <;> rfl⟩
  have hbit : (1#32 <<< e.code).getLsbD n = decide (e.code = n) := by
    rw [← BitVec.twoPow_eq, BitVec.getLsbD_twoPow, decide_eq_true e.code_lt, Bool.true_and]
  rw [BitVec.getLsbD_or, hbit, State.raise_statusWord_getLsbD]

/-! ### The flag an access raises -/

/-- The error an access of this kind raises, if any: the table of spec/60_exceptions.md R232 in the order of R237(a), by
which a start looks at BUSY before LEN. -/
def HostKind.error (v : HostView) : HostKind → Option ErrorFlag
  | .silent | .clear => none
  | .reserved => some .cmd
  | .operandWrite | .hash8 => if v.busy then some .busy else none
  | .hash64 => if v.busy then some .busy else if v.len = 0#32 then some .empty else none

/-- A flag that rises is the one its access raises. -/
theorem HostKind.Shows.error_eq {k : HostKind} {s t : State} (h : k.Shows s.view t.view) {e : ErrorFlag}
    (hs : s.flag e = false) (ht : t.flag e = true) : k.error s.view = some e := by
  cases e with
  | empty =>
    have hrise := h.errEmpty.symm.trans ht
    rw [show s.view.errEmpty = false from hs] at hrise
    obtain ⟨-, ⟨hb, -⟩, rfl, hl⟩ :
        k ≠ .clear ∧ (s.view.busy = false ∧ k.isStart = true) ∧ k = .hash64 ∧ s.view.len = 0#32 := by
      simpa [beq_eq_decide_eq] using hrise
    simp [HostKind.error, hb, hl]
  | cmd =>
    have hrise := h.errCmd.symm.trans ht
    rw [show s.view.errCmd = false from hs] at hrise
    obtain ⟨-, rfl⟩ : k ≠ .clear ∧ k = .reserved := by simpa [beq_eq_decide_eq] using hrise
    rfl
  | busy =>
    have hrise := h.errBusy.symm.trans ht
    rw [show s.view.errBusy = false from hs] at hrise
    obtain ⟨-, hb, (rfl | rfl) | rfl⟩ :
        k ≠ .clear ∧ s.view.busy = true ∧ ((k = .hash8 ∨ k = .hash64) ∨ k = .operandWrite) := by
      simpa [beq_eq_decide_eq, HostKind.isStart] using hrise
    all_goals exact if_pos hb

/-- Settles O25: a flag that rises is the one error of its access, and the two priorities are the effects of a reserved
code and of a refused HASH64. -/
theorem oneAccessRaisesAtMostOneFlag : Obligations.OneAccessRaisesAtMostOneFlag := by
  intro item s t h
  have heff := exec_effect h
  refine ⟨fun e e' hs ht hs' ht' => ?_, fun _ hk => ?_, fun hop hk => ?_⟩
  · exact Option.some.inj ((heff.shows.error_eq hs ht).symm.trans (heff.shows.error_eq hs' ht'))
  · rw [isReserved_eq, beq_iff_eq] at hk
    rw [hk] at heff
    exact heff
  · rw [isHash64_eq, beq_iff_eq] at hk
    rw [hk] at heff
    exact heff.trans (State.startHash64_busy (s.busy_iff.2 hop))

/-! ### No trap -/

/-- Settles O34: no arm of `exec` faults or refuses, so no cycle does. -/
theorem everyStepAnswersNext : Obligations.EveryStepAnswersNext :=
  ⟨exists_exec_eq_next, exists_step_eq_next⟩

/-! ### The access in the cycle of `finish` -/

/-- A read of STATUS in a cycle that begins with an operation running returns BUSY = 1, whatever the engine does in that
cycle (spec/43_control.md R209). -/
theorem hrdata_busy_of_readStatus {s t : State} {low : BitVec 2} (hb : s.busy = true) (hr : s.nextCycle.rst = false)
    (hh : s.nextCycle.host = some (readAt 1#3 low)) (h : step s = .next t) : t.hrdata.getLsbD 0 = true := by
  obtain ⟨w, hw, hbit, -⟩ := readStatusReturnsTheFlags low s.popInput
  have hdec : decode (readAt 1#3 low) = .rdStatus low := decode_readAt 1#3 low
  have hcycle := runCycle_of_host hr hh (hdec ▸ hw)
  rw [show runCycle s.nextCycle s.popInput = .next t from h] at hcycle
  injection hcycle with ht
  rw [ht, State.afterHost_hrdata]
  exact hbit.trans (decide_eq_true (s.busy_iff.1 hb))

/-- While an operation runs a start or an operand write raises ERR_BUSY, whatever the engine does in that cycle
(spec/60_exceptions.md R235). -/
theorem errBusy_of_refused {s t : State} (hb : s.busy = true) (hr : s.nextCycle.rst = false) (h : step s = .next t)
    (hk : s.nextCycle.hostIs isStart = true ∨ s.nextCycle.hostIs isOperandWrite = true) : t.errBusy = true := by
  have hclear : s.nextCycle.hostIs isClear = false := by
    refine Bool.eq_false_iff.2 fun hc => ?_
    rw [Cycle.hostIs_isClear, beq_iff_eq] at hc
    rw [Cycle.hostIs_isStart, Cycle.hostIs_isOperandWrite, hc] at hk
    exact absurd hk (by decide)
  obtain ⟨-, hbusy⟩ := errBusyFlagLaw
  rw [hbusy s t h, hr, hb, hclear]
  simpa using .inr hk

/-- CLEAR leaves no error flag set, whatever the engine does in that cycle (spec/43_control.md R201). -/
theorem errors_of_clear {s t : State} (h : step s = .next t) (hk : s.nextCycle.hostIs isClear = true) :
    t.errBusy = false ∧ t.errCmd = false ∧ t.errEmpty = false := by
  obtain ⟨-, hempty⟩ := errEmptyFlagLaw
  obtain ⟨-, hcmd⟩ := errCmdFlagLaw
  obtain ⟨-, hbusy⟩ := errBusyFlagLaw
  rw [hbusy s t h, hcmd s t h, hempty s t h, hk]
  simp

/-- Settles O44: the cycle of `finish` begins with BUSY = 1, and what the host access then does to the error flags and
to `hrdata` the end of the operation leaves. -/
theorem hostAccessInTheFinishCycle : Obligations.HostAccessInTheFinishCycle := by
  intro s t h hf
  obtain ⟨hs, -⟩ := State.finishesIn_iff.1 hf
  obtain ⟨hr, hb⟩ := State.stepsIn_running hs
  obtain ⟨hidle, hdone⟩ := ended_of_finishesIn hf h
  obtain ⟨hbase, hlen, -⟩ := messageIsFixedWhileBusy s t (s.busy_iff.1 hb) hr h
  have hrefused := errBusy_of_refused hb hr h
  exact ⟨hidle, hdone, fun hk => hrefused (.inl hk), fun hk => ⟨hrefused (.inr hk), hbase, hlen⟩,
    fun _ hh => hrdata_busy_of_readStatus hb hr hh h, errors_of_clear h⟩

end Sys2Proof.Machine
end

section
/-! SUPPORT. A cycle with `rst` = 1 (spec/70_reset_and_hazards.md R261, R262). -/

namespace Sys2Proof.Machine

/-- A step with `rst` = 1 is a reset cycle: neither a host access runs nor the engine. -/
theorem step_of_rst {s : State} (hr : s.nextCycle.rst = true) :
    step s = .next (s.popInput.resetCycle s.nextCycle) := by
  simp only [step, runCycle, hr, if_true]

/-- A reset cycle requests no message read. -/
theorem State.mReq_of_rst (s : State) {c : Cycle} (hr : c.rst = true) : s.mReq c = false := by
  simp [State.mReq, hr]

/-- But for the message memory and the model's own fields a reset cycle leaves the reset state of its configuration. -/
theorem State.resetCycle_core (s : State) (c : Cycle) :
    { s.resetCycle c with mem := [], hrdata := 0#32, disturbed := [], draws := 0, inputs := [] } =
      State.resetWith s.cfg := by
  obtain ⟨m, w, h⟩ := s.resetCycle_eq c
  rw [h]
  rfl

/-- A host read in a reset cycle is answered 0. -/
theorem State.resetCycle_hrdata_of_isRead (s : State) {c : Cycle} (hread : c.hostIs HostItem.isRead = true) :
    (s.resetCycle c).hrdata = 0x00000000#32 := by
  rw [Cycle.hostIs] at hread
  simp [State.resetCycle, hread]

/-- Settles O33: a step with `rst` = 1 is a reset cycle, which leaves the core elements and `hrdata` as its laws say; the
memory is that of any cycle without platform writes. -/
theorem resetCycleResetsTheCore : Obligations.ResetCycleResetsTheCore := by
  intro s hr
  have hstep := step_of_rst hr
  exact ⟨s.mReq_of_rst hr, _, hstep, s.popInput.resetCycle_core _, s.popInput.resetCycle_hrdata_of_isRead,
    fun hst => step_mem hst hstep⟩

end Sys2Proof.Machine
end
